-- ==== Sys2Proof/Word.lean ====
section
/-! DEFINITION. The bit-vector types of the RPC block, one per width the spec names
(spec/00_scope.md R8, R11; spec/10_state.md R20-R27; spec/30_encoding.md R80). -/

namespace Sys2Proof

/-- DATA_W (R8): the width of every operand, register value and transport data byte. -/
abbrev dataW : Nat := 8

/-- CMD_W (R8): the width of the command word. -/
abbrev cmdW : Nat := 40

/-- A byte: an operand, a peripheral register's value or a register address (R24, R47). -/
abbrev Byte := BitVec 8

/-- A command word as the host offers it (R80). -/
abbrev CommandWord := BitVec 40

/-- A device address on the two-wire bus: 7 bits (R7, R51). -/
abbrev DeviceAddr := BitVec 7

/-- STATUS, 2 bits (R27). -/
abbrev Status := BitVec 2

/-- SEQ.step, 3 bits (R23). -/
abbrev StepIndex := BitVec 3

end Sys2Proof
end

