-- ==== Sys2Proof/Syntax.lean ====
section
/-! DEFINITION. The fourteen operations of the block (spec/00_scope.md R9, spec/30_encoding.md R82, R83), one
constructor per row of spec/opcode_table.json, its operands in the order of R82. An operand is "one unsigned
byte taken from its field unchanged", so it is a Byte and carries its own range. -/

namespace Sys2Proof

inductive Instr where
  /-- INIT, `initialize()` (R100). -/
  | init
  /-- SETDATE, `setDate(day, month, year, weekDay)` (R110). -/
  | setdate (day month year weekDay : Byte)
  /-- SETTIME, `setTime(hour, minute, second)` (R111). -/
  | settime (hour minute second : Byte)
  /-- GETSEC (R121). -/
  | getsec
  /-- GETMIN (R122). -/
  | getmin
  /-- GETHOUR (R123). -/
  | gethour
  /-- GETWDAY (R124). -/
  | getwday
  /-- GETDAY (R125). -/
  | getday
  /-- GETMON (R126). -/
  | getmon
  /-- GETYEAR (R127). -/
  | getyear
  /-- RDRAW, `readRegisterRaw(addr)` (R135). -/
  | rdraw (addr : Byte)
  /-- WRRAW, `writeRegisterRaw(addr, value)` (R136). -/
  | wrraw (addr value : Byte)
  /-- D2B, `decimalToBcd(n)` (R143). -/
  | d2b (n : Byte)
  /-- B2D, `bcdToDecimal(n)` (R144). -/
  | b2d (n : Byte)
  deriving DecidableEq, Repr

end Sys2Proof
end

