-- ==== Sys2Proof/WellFormed.lean ====
section
/-! DEFINITION. What makes a command well formed as text (spec/30_encoding.md R82, R83, R90). Every value of
`Instr` is well formed, because its operands are bytes (R82: an operand is one unsigned byte, no range is
checked, R205); what can be ill formed is the source line a command is written as: a mnemonic that is none
of the fourteen, a wrong number of operands, or a number that does not fit in 8 bits (R90). -/

namespace Sys2Proof

/-- One line of the assembler's input after its numbers are read: a mnemonic and its operands (R90). -/
structure SourceLine where
  mnemonic : String
  operands : List Nat
  deriving DecidableEq, Repr

/-- How many operands each of the fourteen mnemonics takes (R82, R83); none for any other name. -/
def operandCounts : List (String × Nat) :=
  [("INIT", 0), ("SETDATE", 4), ("SETTIME", 3), ("GETSEC", 0), ("GETMIN", 0), ("GETHOUR", 0), ("GETWDAY", 0),
   ("GETDAY", 0), ("GETMON", 0), ("GETYEAR", 0), ("RDRAW", 1), ("WRRAW", 2), ("D2B", 1), ("B2D", 1)]

/-- R83: the mnemonic is one of the fourteen. -/
def SourceLine.knownMnemonic (l : SourceLine) : Bool :=
  operandCounts.any (fun row => row.1 == l.mnemonic)

/-- R82: the line gives exactly the operands of its mnemonic. -/
def SourceLine.operandCountRight (l : SourceLine) : Bool :=
  operandCounts.any (fun row => row.1 == l.mnemonic && row.2 == l.operands.length)

/-- R90: each number "must fit in 8 bits or the line is refused by the assembler". -/
def SourceLine.operandsFit (l : SourceLine) : Bool :=
  l.operands.all (fun n => decide (n < 256))

/-- A source line the assembler accepts (R82, R83, R90). -/
def SourceLine.wellFormed (l : SourceLine) : Bool :=
  l.knownMnemonic && l.operandCountRight && l.operandsFit

/-- The line a command is written as: its mnemonic (R83) and its operands in the order of R82. -/
def Instr.sourceLine : Instr → SourceLine
  | .init => ⟨"INIT", []⟩
  | .setdate day month year weekDay => ⟨"SETDATE", [day.toNat, month.toNat, year.toNat, weekDay.toNat]⟩
  | .settime hour minute second => ⟨"SETTIME", [hour.toNat, minute.toNat, second.toNat]⟩
  | .getsec => ⟨"GETSEC", []⟩
  | .getmin => ⟨"GETMIN", []⟩
  | .gethour => ⟨"GETHOUR", []⟩
  | .getwday => ⟨"GETWDAY", []⟩
  | .getday => ⟨"GETDAY", []⟩
  | .getmon => ⟨"GETMON", []⟩
  | .getyear => ⟨"GETYEAR", []⟩
  | .rdraw addr => ⟨"RDRAW", [addr.toNat]⟩
  | .wrraw addr value => ⟨"WRRAW", [addr.toNat, value.toNat]⟩
  | .d2b n => ⟨"D2B", [n.toNat]⟩
  | .b2d n => ⟨"B2D", [n.toNat]⟩

/-- A well-formed instruction is one whose source line is (it always is: Laws/Decode.lean). -/
def Instr.wellFormed (i : Instr) : Bool := i.sourceLine.wellFormed

end Sys2Proof
end

