-- ==== Sys2Proof/Decode.lean ====
section
/-! DEFINITION. The command word (spec/30_encoding.md R80-R86, R89), read and written: one 40-bit format
`op[39:32] a3[31:24] a2[23:16] a1[15:8] a0[7:0]`, the opcode alone selects the operation, unused operand
fields are ignored by the decoder and zero in the encoder's words. Every word has one of two verdicts: one of
the fourteen operations, or illegal (none). -/

namespace Sys2Proof

/-- `op`, bits 39:32 (R80). -/
def CommandWord.op (w : CommandWord) : Byte := w.extractLsb' 32 8

/-- `a3`, bits 31:24 (R80). -/
def CommandWord.a3 (w : CommandWord) : Byte := w.extractLsb' 24 8

/-- `a2`, bits 23:16 (R80). -/
def CommandWord.a2 (w : CommandWord) : Byte := w.extractLsb' 16 8

/-- `a1`, bits 15:8 (R80). -/
def CommandWord.a1 (w : CommandWord) : Byte := w.extractLsb' 8 8

/-- `a0`, bits 7:0 (R80). -/
def CommandWord.a0 (w : CommandWord) : Byte := w.extractLsb' 0 8

/-- The command word with these fields: `{op, a3, a2, a1, a0}` (R80, R11). -/
def commandWord (op a3 a2 a1 a0 : Byte) : CommandWord := op ++ a3 ++ a2 ++ a1 ++ a0

/-- A row of R83: an opcode, and the operation it selects with the operands a0, a1, a2, a3. -/
structure OpcodeRow where
  op : Byte
  build : Byte → Byte → Byte → Byte → Instr

/-- The fourteen opcodes (R83) with the operand places of R82. -/
def opcodeTable : List OpcodeRow :=
  [ ⟨0x01#8, fun _ _ _ _ => .init⟩,
    ⟨0x02#8, fun a0 a1 a2 a3 => .setdate a0 a1 a2 a3⟩,
    ⟨0x03#8, fun a0 a1 a2 _ => .settime a0 a1 a2⟩,
    ⟨0x10#8, fun _ _ _ _ => .getsec⟩,
    ⟨0x11#8, fun _ _ _ _ => .getmin⟩,
    ⟨0x12#8, fun _ _ _ _ => .gethour⟩,
    ⟨0x13#8, fun _ _ _ _ => .getwday⟩,
    ⟨0x14#8, fun _ _ _ _ => .getday⟩,
    ⟨0x15#8, fun _ _ _ _ => .getmon⟩,
    ⟨0x16#8, fun _ _ _ _ => .getyear⟩,
    ⟨0x20#8, fun a0 _ _ _ => .rdraw a0⟩,
    ⟨0x21#8, fun a0 a1 _ _ => .wrraw a0 a1⟩,
    ⟨0x30#8, fun a0 _ _ _ => .d2b a0⟩,
    ⟨0x31#8, fun a0 _ _ _ => .b2d a0⟩ ]

/-- The decoder (R81): total on 40-bit words; none is the verdict "illegal" of R85, R86. -/
def decode (w : CommandWord) : Option Instr :=
  (opcodeTable.find? (fun row => row.op == w.op)).map (fun row => row.build w.a0 w.a1 w.a2 w.a3)

/-- The decoder on bytes (R89: `op, a3, a2, a1, a0`): the operation and the bytes after its five, or none where
fewer than five bytes stand or the opcode is illegal. -/
def decodeBytes : List Byte → Option (Instr × List Byte)
  | op :: a3 :: a2 :: a1 :: a0 :: rest => (decode (commandWord op a3 a2 a1 a0)).map (fun i => (i, rest))
  | _ => none

/-- An instruction given as spec/opcode_table.json numbers its bits: the row is one 40-bit word with bit 0 its
least significant bit (R80, R81); bits at or above nbits are zero. A number that is wider than a command is
no command (notes/assumptions/15.md). -/
def decodeTableWord (nbits w : Nat) : Option Instr :=
  if w % 2 ^ nbits < 2 ^ 40 then decode (BitVec.ofNat 40 (w % 2 ^ nbits)) else none

/-- The opcode of an operation (R83). -/
def Instr.opcode : Instr → Byte
  | .init => 0x01#8
  | .setdate _ _ _ _ => 0x02#8
  | .settime _ _ _ => 0x03#8
  | .getsec => 0x10#8
  | .getmin => 0x11#8
  | .gethour => 0x12#8
  | .getwday => 0x13#8
  | .getday => 0x14#8
  | .getmon => 0x15#8
  | .getyear => 0x16#8
  | .rdraw _ => 0x20#8
  | .wrraw _ _ => 0x21#8
  | .d2b _ => 0x30#8
  | .b2d _ => 0x31#8

/-- The operands of an operation in its used fields, a0 first (R82). -/
def Instr.operands : Instr → List Byte
  | .init => []
  | .setdate day month year weekDay => [day, month, year, weekDay]
  | .settime hour minute second => [hour, minute, second]
  | .getsec => []
  | .getmin => []
  | .gethour => []
  | .getwday => []
  | .getday => []
  | .getmon => []
  | .getyear => []
  | .rdraw addr => [addr]
  | .wrraw addr value => [addr, value]
  | .d2b n => [n]
  | .b2d n => [n]

/-- The encoder: opcode, operands in a0, a1, a2, a3, and zero in unused fields (R80, R82, R84). -/
def encode (i : Instr) : CommandWord :=
  commandWord i.opcode (i.operands.getD 3 0#8) (i.operands.getD 2 0#8) (i.operands.getD 1 0#8)
    (i.operands.getD 0 0#8)

/-- A command word as five bytes, opcode first (R89). -/
def wordBytes (w : CommandWord) : List Byte := [w.op, w.a3, w.a2, w.a1, w.a0]

/-- The encoder to bytes (R89). -/
def encodeBytes (i : Instr) : List Byte := wordBytes (encode i)

end Sys2Proof
end

