-- ==== Sys2Proof/Config.lean ====
section
/-! DEFINITION. The three parameters the spec leaves open (spec/00_scope.md R8,
spec/92_eei_decisions.md "Open parameters in one place"). Their type stands here; their defaults are in
Machine/Constants.lean. A machine's parameters are one field of State that no step changes, so every
statement over all states is a statement over every choice of them (notes/assumptions/2.md). -/

namespace Sys2Proof

/-- SEC_KEEP_MASK (R8, D8): "one of 0x80 or 0xFF". -/
inductive SecKeepMask where
  /-- 0x80: only the oscillator-enable/halt flag of the old seconds byte enters SETTIME's merge. -/
  | flagOnly
  /-- 0xFF: the whole old seconds byte enters SETTIME's merge. -/
  | wholeByte
  deriving DecidableEq, Repr

/-- The open parameters (R8). -/
structure Params where
  /-- MODE_CONST (D7): the desired mode bits INIT ORs into the hours register. -/
  modeConst : Byte
  /-- SEC_KEEP_MASK (D8). -/
  secKeepMask : SecKeepMask
  /-- RMW_READ_ERR_ABORTS (D10): whether a failed read inside INIT or SETTIME aborts the command. -/
  rmwReadErrAborts : Bool
  deriving DecidableEq, Repr

end Sys2Proof
end

