-- ==== Sys2Proof/Machine/Constants.lean ====
section
/-! DEFINITION. The constants the document fixes and the defaults of the open parameters
(spec/00_scope.md R7, R8). -/

namespace Sys2Proof.Machine

/-- DEV_ADDR: "fixed device bus address used on every transaction" (R7, R51). -/
def devAddr : DeviceAddr := 0x68#7

/-- REG_SEC (R7). -/
def regSec : Byte := 0x00#8
/-- REG_MIN (R7). -/
def regMin : Byte := 0x01#8
/-- REG_HOUR (R7). -/
def regHour : Byte := 0x02#8
/-- REG_WDAY (R7). -/
def regWday : Byte := 0x03#8
/-- REG_DAY (R7). -/
def regDay : Byte := 0x04#8
/-- REG_MON (R7). -/
def regMon : Byte := 0x05#8
/-- REG_YEAR (R7). -/
def regYear : Byte := 0x06#8
/-- REG_CTRL (R7). -/
def regCtrl : Byte := 0x07#8

/-- CTRL_INIT: the value INIT writes to the control register (R7, R46). -/
def ctrlInit : Byte := 0x93#8
/-- SEC_MASK: the bits of the seconds register GETSEC keeps (R7). -/
def secMask : Byte := 0x7F#8
/-- HOUR_MASK: the bits of the hours register GETHOUR keeps (R7, R44). -/
def hourMask : Byte := 0x3F#8
/-- The mask of the five getters the document names no mask for: none (R120, D12). -/
def noMask : Byte := 0xFF#8
/-- INIT_KEEP_MASK: the bits of the old hours register INIT keeps (R7). -/
def initKeepMask : Byte := 0x1F#8
/-- INIT_MODE_MASK: the bits of MODE_CONST INIT ORs in (R7). -/
def initModeMask : Byte := 0xE0#8
/-- SEC_FLAG_BIT: the oscillator-enable/halt flag of the seconds register (R7, R42). -/
def secFlagBit : Byte := 0x80#8

/-- The byte SEC_KEEP_MASK stands for (R8). -/
def secKeepByte : SecKeepMask → Byte
  | .flagOnly => 0x80#8
  | .wholeByte => 0xFF#8

/-- The defaults of R8: MODE_CONST 0x00, SEC_KEEP_MASK 0x80, RMW_READ_ERR_ABORTS true. -/
def defaultParams : Params := { modeConst := 0x00#8, secKeepMask := .flagOnly, rmwReadErrAborts := true }

/-- The document names the eight registers 0x00 to 0x07; what lies at 0x08 to 0xFF "is left to the peripheral"
(R41, R47, R61). -/
def isNamed (reg : Byte) : Bool := decide (reg.toNat < 8)

end Sys2Proof.Machine
end

