-- ==== Sys2Proof/Machine/State.lean ====
section
/-! DEFINITION. The state of a run (spec/10_state.md): the block's ten registers (R20), the parameters of its
step relation (R28), and the outside as plain data: the peripheral's registers (R41), the commands the host
offers (R30), what the transport, the chip and the reset pin do next (R6, R52, R48, R190), and the event
history (R29). -/

namespace Sys2Proof.Machine

/-- The peripheral's eight registers (R41): pairs of address and byte in one canonical form (Ops.lean,
`Memory.wf`). -/
abbrev Memory := List Host.Cell

/-- The transport's answer to one request (R52, R53, R54). `draw` is the value `draw8()` of R56: the byte a failed
read hands back, the content of a register after a failed write (R55), or the byte an unnamed address answers
(U5). Nothing constrains it (notes/assumptions/1.md). -/
structure Answer where
  err : Bool
  draw : Byte
  deriving DecidableEq, Repr

/-- What a reset of the block leaves open (R35, R190, U9): the unspecified registers take whatever values stand
here, and if a write was in flight, its target register holds `landed` (none: the register is as it was; notes/assumptions/12.md). -/
structure ResetDraw where
  op : Byte
  step : StepIndex
  a0 : Byte
  a1 : Byte
  a2 : Byte
  a3 : Byte
  t : Byte
  res : Byte
  landed : Option Byte
  deriving DecidableEq, Repr

/-- What the outside does next: on the block's transport port, on its reset pin, on the peripheral, or nothing. -/
inductive Input where
  /-- The transport answers the block's outstanding request (R52). -/
  | answer (a : Answer)
  /-- The chip itself or another bus master changes a register of the peripheral (R48, R201, N13). -/
  | chip (reg value : Byte)
  /-- The reset input is asserted (R190). -/
  | reset (d : ResetDraw)
  /-- Nothing: the block takes the step it can take without an answer, so an act that comes later in the list may fall
  between an acceptance and the command's first micro-step (R30, R190). -/
  | quiet
  deriving DecidableEq, Repr

/-- The events of R29. -/
inductive Event where
  /-- `Cmd(word)`: a command accepted. -/
  | cmd (w : CommandWord)
  /-- `Rd(dev, reg, err, byte)`: a read transaction and its answer. -/
  | rd (dev : DeviceAddr) (reg : Byte) (err : Bool) (byte : Byte)
  /-- `Wr(dev, reg, value, err)`: a write transaction and its answer. -/
  | wr (dev : DeviceAddr) (reg value : Byte) (err : Bool)
  /-- `Rsp(status, data?)`: a response; none where it carries no value (R26). -/
  | rsp (status : Status) (data : Option Byte)
  deriving DecidableEq, Repr

/-- Why the machine may stop. -/
inductive Fault where
  /-- Raised by `runMicro` when SEQ.step indexes past the last micro-step of the command in progress. R31 gives no
  micro-step there and R23 says that the index never gets there: a stuck state that no run reaches. Safe: the
  model stops where the spec gives no effect (notes/assumptions/9.md). -/
  | noMicroStep
  deriving DecidableEq, Repr

/-- Why a step may have no meaning. -/
inductive Refusal where
  /-- An instruction without a meaning, by its mnemonic. Every instruction of this hardware has its meaning, so
  nothing raises it. Safe. -/
  | notModelled (mnemonic : String)
  deriving DecidableEq, Repr

structure State where
  /-- BUSY, 1 bit (R21). -/
  busy : Bool
  /-- SEQ.op (R22): the opcode of the command in progress. -/
  seqOp : Byte
  /-- SEQ.step (R23): the index of the next micro-step. -/
  seqStep : StepIndex
  /-- A0 (R24). -/
  a0 : Byte
  /-- A1 (R24). -/
  a1 : Byte
  /-- A2 (R24). -/
  a2 : Byte
  /-- A3 (R24). -/
  a3 : Byte
  /-- T (R25): the byte of the most recent read of the command in progress. -/
  t : Byte
  /-- RES (R26): the result byte. -/
  res : Byte
  /-- STATUS (R27): the status of the last completed command. -/
  status : Status
  /-- The open parameters of the step relation (R8, R28); no step changes them. -/
  params : Params
  /-- The registers of the peripheral (R41). -/
  periph : Memory
  /-- The command words the host offers, the next one first (R30). -/
  offers : List CommandWord
  /-- What the transport, the chip and the reset pin do next, in order (R6, R52). -/
  inputs : List Input
  /-- The event history, oldest first (R29; notes/assumptions/10.md). -/
  history : List Event
  deriving DecidableEq, Repr

/-- The machine right after reset (R35): idle, STATUS 0. The spec leaves every other register of the block
"unspecified"; the values here are the model's (notes/assumptions/3.md). Nothing has happened and nothing is
offered yet; the peripheral's memory lists nothing (notes/assumptions/4.md). -/
def State.reset : State where
  busy := false
  seqOp := 0#8
  seqStep := 0#3
  a0 := 0#8
  a1 := 0#8
  a2 := 0#8
  a3 := 0#8
  t := 0#8
  res := 0#8
  status := 0#2
  params := defaultParams
  periph := []
  offers := []
  inputs := []
  history := []

end Sys2Proof.Machine
end

