-- ==== Sys2Proof/Machine/Flags.lean ====
section
/-! DEFINITION. The block's flag registers, BUSY and STATUS, and nothing else: there are no condition codes, no
carry and no overflow flag (spec/10_state.md R21, R27, R28; spec/60_exceptions.md R161). -/

namespace Sys2Proof.Machine

/-- STATUS 0, OK (R27, R161). -/
def statusOk : Status := 0#2

/-- STATUS 1, TRANSPORT_ERROR (R27, R161). -/
def statusTransportError : Status := 1#2

/-- STATUS 2, ILLEGAL_COMMAND (R27, R161). STATUS 3 is never produced. -/
def statusIllegalCommand : Status := 2#2

/-- BUSY set and SEQ.step cleared, as acceptance does (R21, R30). -/
def setBusy (s : State) : State := { s with busy := true, seqStep := 0#3 }

/-- STATUS written and BUSY cleared, as completion does (R21, R27, R33). -/
def setStatus (code : Status) (s : State) : State := { s with status := code, busy := false }

end Sys2Proof.Machine
end

