-- ==== Sys2Proof/Machine/Operands.lean ====
section
/-! DEFINITION. The values the micro-programs compute from their operands and T: the BCD codec
(spec/44_bcd_codec.md R140-R142, R145) and the merges of INIT and SETTIME (spec/40_initialize.md R100,
spec/41_set_date_time.md R111). -/

namespace Sys2Proof.Machine

/-- `D2B9(n)`, the exact encoder (R140): `(n div 10) * 16 + (n mod 10)` as 9 bits. -/
def d2b9 (n : Byte) : BitVec 9 := BitVec.ofNat 9 (n.toNat / 10 * 16 + n.toNat % 10)

/-- `D2B(n) = D2B9(n)[7:0]`, the byte encoder (R141); bit 8 is dropped. -/
def d2b (n : Byte) : Byte := (d2b9 n).extractLsb' 0 8

/-- `B2D(n)`, the decoder (R142): `(n div 16) * 10 + (n mod 16)`. -/
def b2d (n : Byte) : Byte := BitVec.ofNat 8 (n.toNat / 16 * 10 + n.toNat % 16)

/-- INIT's merged hours byte (R100): `(T & 0x1F) | (MODE_CONST & 0xE0)`, not encoded. -/
def initHours (p : Params) (t : Byte) : Byte := (t &&& initKeepMask) ||| (p.modeConst &&& initModeMask)

/-- The hours byte SETTIME writes (R111): the whole old byte ORed with the hour, then encoded. -/
def mergedHours (t hour : Byte) : Byte := d2b (t ||| hour)

/-- The seconds byte SETTIME writes (R111): `D2B((T & SEC_KEEP_MASK) | second)`. -/
def mergedSeconds (p : Params) (t second : Byte) : Byte := d2b ((t &&& secKeepByte p.secKeepMask) ||| second)

end Sys2Proof.Machine
end

