-- ==== Sys2Proof/Machine/Ops.lean ====
section
/-! DEFINITION. The named operations of the step relation (spec/10_state.md R30-R34), the transport primitives
(spec/20_memory.md R52-R56) and the errors (spec/60_exceptions.md R163-R166). -/

namespace Sys2Proof.Machine

/-! ## The peripheral's registers -/

/-- What a register that the list does not name reads as. The spec gives the chip's power-up contents no value
(R41, N12); this one is the model's (notes/assumptions/4.md). -/
def unlistedByte : Byte := 0x00#8

/-- The byte a peripheral register holds. -/
def Memory.read : Memory → Nat → Byte
  | [], _ => unlistedByte
  | c :: m, a => if c.1 = a then c.2 else Memory.read m a

/-- A peripheral register given a value; the canonical form is kept. -/
def Memory.write : Memory → Nat → Byte → Memory
  | [], a, v => if v = unlistedByte then [] else [(a, v)]
  | c :: m, a, v =>
    if a < c.1 then (if v = unlistedByte then c :: m else (a, v) :: c :: m)
    else if a = c.1 then (if v = unlistedByte then m else (a, v) :: m)
    else c :: Memory.write m a v

/-- The canonical form: addresses strictly rising, each that of a named register (R41), no entry equal to what an
unlisted address reads as. -/
abbrev Memory.wf (m : Memory) : Prop :=
  m.Pairwise (fun c d => c.1 < d.1) ∧ ∀ c ∈ m, c.1 < 8 ∧ c.2 ≠ unlistedByte

/-- A register of the peripheral given a value (R54). At 0x08 to 0xFF a write has "no effect the block relies on"
(U5): the eight registers keep theirs (notes/assumptions/6.md). -/
def storeReg (m : Memory) (reg v : Byte) : Memory := if isNamed reg then Memory.write m reg.toNat v else m

/-! ## The transport primitives -/

/-- `MemRead(reg, 1)` (R53): the pair `(err, b)`. A successful read of a named register yields what the peripheral
holds at this moment (R63, R64); a failed read (R55) and a read at 0x08 to 0xFF (U5) yield the draw. -/
def memRead (reg : Byte) (a : Answer) (m : Memory) : Bool × Byte :=
  (a.err, if a.err || !isNamed reg then a.draw else Memory.read m reg.toNat)

/-- `MemWrite(reg, 1, v)` (R54): `err`, and the peripheral after it. After a failed write the target register holds
the draw, and no other register is affected (R55). -/
def memWrite (reg v : Byte) (a : Answer) (m : Memory) : Bool × Memory :=
  (a.err, storeReg m reg (if a.err then a.draw else v))

/-- The answer to the outstanding request, when the transport gives one next; while there is none the block waits
(R32, R69). -/
def takeAnswer (s : State) : Option (Answer × State) :=
  match s.inputs with
  | .answer a :: rest => some (a, { s with inputs := rest })
  | _ => none

/-! ## Events, acceptance, advance, completion -/

/-- An event is added to the history (R29). -/
def record (e : Event) (s : State) : State := { s with history := s.history ++ [e] }

/-- Acceptance of the word `w` (R30). -/
def accept (w : CommandWord) (s : State) : State :=
  record (.cmd w) (setBusy { s with seqOp := w.op, a3 := w.a3, a2 := w.a2, a1 := w.a1, a0 := w.a0 })

/-- `complete(status, data?)` (R33): STATUS, RES when data is given, BUSY, and the response event. -/
def complete (code : Status) (data : Option Byte) (s : State) : State :=
  record (.rsp code data) (setStatus code { s with res := data.getD s.res })

/-- Advance (R32): after a micro-step that does not abort, the last one completes with STATUS 0, any other one adds
1 to SEQ.step and changes nothing else. -/
def advance (last : Bool) (s : State) : State :=
  if last then complete statusOk none s else { s with seqStep := s.seqStep + 1#3 }

/-! ## Errors: the one way a command ends abnormally (R160) -/

/-- Taking an error, the block's one exception entry (R163, R164): `complete(code)` with no data. No state is
saved, no mode changes, control goes nowhere but to idle (R167); the return from it is that the block is idle
and accepts the next command (R169), so the same completion is both. -/
def raiseError (code : Status) (s : State) : State := complete code none s

/-- `raise TransportError(k)` (R163): the rest of the micro-sequence is not attempted, nothing is retried and
nothing is undone. The step index k is recorded nowhere (R161). -/
def raiseTransportError (s : State) : State := raiseError statusTransportError s

/-- `raise IllegalCommand(op)` (R164). The opcode is recorded nowhere (R161). -/
def raiseIllegalCommand (s : State) : State := raiseError statusIllegalCommand s

/-! ## Micro-steps (R31) -/

/-- What becomes of the byte a read micro-step returns. -/
inductive ReadUse where
  /-- Kept in T for the write-back of a read-modify-write; a failed read is R166's case. -/
  | merge
  /-- Masked, decoded and given as the result of a getter; a failed read is R165's case (R120). -/
  | decoded (mask : Byte)
  /-- Given as the result unchanged (R135); a failed read is R165's case. -/
  | raw
  deriving DecidableEq, Repr

/-- A micro-step is exactly one of three kinds (R31). -/
inductive MicroStep where
  | read (reg : Byte) (use : ReadUse)
  | write (reg value : Byte)
  | internal (result : Byte)
  deriving DecidableEq, Repr

/-- After the answer to a read micro-step; `s` already holds the byte in T. -/
def afterRead (use : ReadUse) (last err : Bool) (s : State) : State :=
  match use with
  | .merge => if err && s.params.rmwReadErrAborts then raiseTransportError s else advance last s
  | .decoded mask => complete statusOk (some (b2d (s.t &&& mask))) s
  | .raw => complete statusOk (some s.t) s

/-- A read micro-step that has its answer: `(err, b) <- MemRead(reg, 1)`; `T <- b`; then R32 or the abort. -/
def answerRead (reg : Byte) (use : ReadUse) (last : Bool) (a : Answer) (s : State) : State :=
  let r := memRead reg a s.periph
  afterRead use last r.1 (record (.rd devAddr reg r.1 r.2) { s with t := r.2 })

/-- A write micro-step that has its answer: `err <- MemWrite(reg, 1, v)`; then R32 or the abort (R163). -/
def answerWrite (reg v : Byte) (last : Bool) (a : Answer) (s : State) : State :=
  let r := memWrite reg v a s.periph
  let s1 := record (.wr devAddr reg v r.1) { s with periph := r.2 }
  if r.1 then raiseTransportError s1 else advance last s1

/-- One micro-step (R31); `last` says that it is the last of its micro-program. A transaction without its answer
leaves the block where it is (R32: it "waits for the answer of a transaction before it does anything else"). -/
def perform (u : MicroStep) (last : Bool) (s : State) : State :=
  match u with
  | .read reg use =>
    match takeAnswer s with
    | none => s
    | some (a, s1) => answerRead reg use last a s1
  | .write reg v =>
    match takeAnswer s with
    | none => s
    | some (a, s1) => answerWrite reg v last a s1
  | .internal result => complete statusOk (some result) s

/-- The micro-step of index SEQ.step of a micro-program (R31). -/
def runMicro (prog : List MicroStep) (s : State) : Host.Outcome State Fault Refusal :=
  match prog[s.seqStep.toNat]? with
  | none => .fault .noMicroStep
  | some u => .next (perform u (decide (s.seqStep.toNat + 1 = prog.length)) s)

end Sys2Proof.Machine
end

