-- ==== Sys2Proof/Machine/Codec.lean ====
section
/-! DEFINITION. The codec as commands: D2B and B2D (spec/44_bcd_codec.md R143, R144). -/

namespace Sys2Proof.Machine

/-- D2B's micro-program (R143): one internal micro-step, no transaction. -/
def d2bProgram (n : Byte) : List MicroStep := [ .internal (d2b n) ]

/-- D2B (R143). -/
def execD2b (n : Byte) (s : State) : Host.Outcome State Fault Refusal := runMicro (d2bProgram n) s

/-- B2D's micro-program (R144): one internal micro-step, no transaction. -/
def b2dProgram (n : Byte) : List MicroStep := [ .internal (b2d n) ]

/-- B2D (R144). -/
def execB2d (n : Byte) (s : State) : Host.Outcome State Fault Refusal := runMicro (b2dProgram n) s

end Sys2Proof.Machine
end

