-- ==== Sys2Proof/Machine/Getters.lean ====
section
/-! DEFINITION. The seven getters (spec/42_getters.md R120-R127). -/

namespace Sys2Proof.Machine

/-- The micro-program of every getter (R120): one read, masked and decoded. -/
def getterProgram (reg mask : Byte) : List MicroStep := [ .read reg (.decoded mask) ]

/-- GETSEC (R121): register 0x00, mask 0x7F. -/
def execGetsec (s : State) : Host.Outcome State Fault Refusal := runMicro (getterProgram regSec secMask) s

/-- GETMIN (R122): register 0x01, no mask. -/
def execGetmin (s : State) : Host.Outcome State Fault Refusal := runMicro (getterProgram regMin noMask) s

/-- GETHOUR (R123): register 0x02, mask 0x3F. -/
def execGethour (s : State) : Host.Outcome State Fault Refusal := runMicro (getterProgram regHour hourMask) s

/-- GETWDAY (R124): register 0x03, no mask. -/
def execGetwday (s : State) : Host.Outcome State Fault Refusal := runMicro (getterProgram regWday noMask) s

/-- GETDAY (R125): register 0x04, no mask. -/
def execGetday (s : State) : Host.Outcome State Fault Refusal := runMicro (getterProgram regDay noMask) s

/-- GETMON (R126): register 0x05, no mask. -/
def execGetmon (s : State) : Host.Outcome State Fault Refusal := runMicro (getterProgram regMon noMask) s

/-- GETYEAR (R127): register 0x06, no mask. -/
def execGetyear (s : State) : Host.Outcome State Fault Refusal := runMicro (getterProgram regYear noMask) s

end Sys2Proof.Machine
end

