-- ==== Sys2Proof/Machine/Initialize.lean ====
section
/-! DEFINITION. INIT (spec/40_initialize.md R100). A micro-program is its table in the spec: the list of its
micro-steps, given the parameters and the byte in T. -/

namespace Sys2Proof.Machine

/-- INIT's micro-program (R100). -/
def initProgram (p : Params) (t : Byte) : List MicroStep :=
  [ .read regHour .merge,
    .write regHour (initHours p t),
    .write regCtrl ctrlInit ]

/-- INIT (R100). -/
def execInit (s : State) : Host.Outcome State Fault Refusal := runMicro (initProgram s.params s.t) s

end Sys2Proof.Machine
end

