-- ==== Sys2Proof/Machine/RawAccess.lean ====
section
/-! DEFINITION. RDRAW and WRRAW (spec/43_raw_access.md R135-R137). -/

namespace Sys2Proof.Machine

/-- RDRAW's micro-program (R135). -/
def rdrawProgram (addr : Byte) : List MicroStep := [ .read addr .raw ]

/-- RDRAW (R135). -/
def execRdraw (addr : Byte) (s : State) : Host.Outcome State Fault Refusal := runMicro (rdrawProgram addr) s

/-- WRRAW's micro-program (R136). -/
def wrrawProgram (addr value : Byte) : List MicroStep := [ .write addr value ]

/-- WRRAW (R136). -/
def execWrraw (addr value : Byte) (s : State) : Host.Outcome State Fault Refusal :=
  runMicro (wrrawProgram addr value) s

end Sys2Proof.Machine
end

