-- ==== Sys2Proof/Machine/SetDateTime.lean ====
section
/-! DEFINITION. SETDATE and SETTIME (spec/41_set_date_time.md R110, R111). -/

namespace Sys2Proof.Machine

/-- SETDATE's micro-program (R110): date-day, month, year, week-day. -/
def setDateProgram (day month year weekDay : Byte) : List MicroStep :=
  [ .write regDay (d2b day),
    .write regMon (d2b month),
    .write regYear (d2b year),
    .write regWday (d2b weekDay) ]

/-- SETDATE (R110). -/
def execSetdate (day month year weekDay : Byte) (s : State) : Host.Outcome State Fault Refusal :=
  runMicro (setDateProgram day month year weekDay) s

/-- SETTIME's micro-program (R111): read and write hours, write minutes, read and write seconds. -/
def setTimeProgram (hour minute second : Byte) (p : Params) (t : Byte) : List MicroStep :=
  [ .read regHour .merge,
    .write regHour (mergedHours t hour),
    .write regMin (d2b minute),
    .read regSec .merge,
    .write regSec (mergedSeconds p t second) ]

/-- SETTIME (R111). -/
def execSettime (hour minute second : Byte) (s : State) : Host.Outcome State Fault Refusal :=
  runMicro (setTimeProgram hour minute second s.params s.t) s

end Sys2Proof.Machine
end

