-- ==== Sys2Proof/Machine/Dispatch.lean ====
section
/-! DEFINITION. The micro-step of each operation: `exec i s` performs the micro-step of index SEQ.step of the
operation i (spec/10_state.md R31). -/

namespace Sys2Proof.Machine

def exec (i : Instr) (s : State) : Host.Outcome State Fault Refusal :=
  match i with
  -- 40_initialize.md
  | .init => Sys2Proof.Machine.execInit s
  -- 41_set_date_time.md
  | .setdate day month year weekDay => Sys2Proof.Machine.execSetdate day month year weekDay s
  | .settime hour minute second => Sys2Proof.Machine.execSettime hour minute second s
  -- 42_getters.md
  | .getsec => Sys2Proof.Machine.execGetsec s
  | .getmin => Sys2Proof.Machine.execGetmin s
  | .gethour => Sys2Proof.Machine.execGethour s
  | .getwday => Sys2Proof.Machine.execGetwday s
  | .getday => Sys2Proof.Machine.execGetday s
  | .getmon => Sys2Proof.Machine.execGetmon s
  | .getyear => Sys2Proof.Machine.execGetyear s
  -- 43_raw_access.md
  | .rdraw addr => Sys2Proof.Machine.execRdraw addr s
  | .wrraw addr value => Sys2Proof.Machine.execWrraw addr value s
  -- 44_bcd_codec.md
  | .d2b n => Sys2Proof.Machine.execD2b n s
  | .b2d n => Sys2Proof.Machine.execB2d n s

end Sys2Proof.Machine
end

