-- ==== Sys2Proof/Machine/MicroPrograms.lean ====
section
/-! DEFINITION. The micro-programs side by side (spec/10_state.md R31, R36), and what the command in progress is
doing: its word, its micro-step, its outstanding request (R22, R31, R32, R48). -/

namespace Sys2Proof.Machine

/-- The micro-program of each operation (R31), given the parameters and the byte in T. -/
def microProgram (i : Instr) (p : Params) (t : Byte) : List MicroStep :=
  match i with
  | .init => initProgram p t
  | .setdate day month year weekDay => setDateProgram day month year weekDay
  | .settime hour minute second => setTimeProgram hour minute second p t
  | .getsec => getterProgram regSec secMask
  | .getmin => getterProgram regMin noMask
  | .gethour => getterProgram regHour hourMask
  | .getwday => getterProgram regWday noMask
  | .getday => getterProgram regDay noMask
  | .getmon => getterProgram regMon noMask
  | .getyear => getterProgram regYear noMask
  | .rdraw addr => rdrawProgram addr
  | .wrraw addr value => wrrawProgram addr value
  | .d2b n => d2bProgram n
  | .b2d n => b2dProgram n

/-- How many micro-steps each operation has: the transactions of R210, or one internal micro-step. -/
def stepCount : Instr → Nat
  | .init => 3
  | .setdate _ _ _ _ => 4
  | .settime _ _ _ => 5
  | .getsec => 1
  | .getmin => 1
  | .gethour => 1
  | .getwday => 1
  | .getday => 1
  | .getmon => 1
  | .getyear => 1
  | .rdraw _ => 1
  | .wrraw _ _ => 1
  | .d2b _ => 1
  | .b2d _ => 1

/-- The word of the command in progress, as SEQ.op and the operand latches hold it (R22, R24, R30). -/
def currentWord (s : State) : CommandWord := commandWord s.seqOp s.a3 s.a2 s.a1 s.a0

/-- The micro-step the block performs next, when a legal command is in progress (R31). -/
def currentMicroStep (s : State) : Option MicroStep :=
  if s.busy then
    match decode (currentWord s) with
    | some i => (microProgram i s.params s.t)[s.seqStep.toNat]?
    | none => none
  else none

/-- A transaction the block asks the transport for (R53, R54); the device address is DEV_ADDR (R51). -/
inductive Request where
  | read (dev : DeviceAddr) (reg : Byte)
  | write (dev : DeviceAddr) (reg value : Byte)
  deriving DecidableEq, Repr

/-- The request of a micro-step; an internal one makes none. -/
def MicroStep.request : MicroStep → Option Request
  | .read reg _ => some (.read devAddr reg)
  | .write reg v => some (.write devAddr reg v)
  | .internal _ => none

/-- The one transaction that may be outstanding (R32, R48). -/
def outstanding (s : State) : Option Request := (currentMicroStep s).bind MicroStep.request

end Sys2Proof.Machine
end

