-- ==== Sys2Proof/Machine/Outside.lean ====
section
/-! DEFINITION. Steps that are not micro-steps: the peripheral changing by itself, the reset input, and the block
idle or accepting a command (spec/10_state.md R30, R34, R35, R48; spec/70_reset_and_hazards.md R190, R201). -/

namespace Sys2Proof.Machine

/-- The peripheral when the block is reset: if a write was in flight its target register holds "any value" (U9),
the one the reset's draw says; nothing else of the peripheral is touched (R190). -/
def abandonInFlight (d : ResetDraw) (s : State) : Memory :=
  match outstanding s, d.landed with
  | some (.write _ reg _), some v => storeReg s.periph reg v
  | _, _ => s.periph

/-- Reset of the block (R35, R190): idle, STATUS 0, every other register unspecified, no response event, no
transaction. The command in progress and its transaction are abandoned. -/
def resetBlock (d : ResetDraw) (s : State) : State :=
  { s with
    busy := false, status := statusOk, seqOp := d.op, seqStep := d.step,
    a0 := d.a0, a1 := d.a1, a2 := d.a2, a3 := d.a3, t := d.t, res := d.res,
    periph := abandonInFlight d s }

/-- A register of the peripheral changes without the block (R48, N13). -/
def chipChanges (reg v : Byte) (s : State) : State := { s with periph := storeReg s.periph reg v }

/-- The block with BUSY 0: it accepts the offered word (R30); with none offered it has no step (R34). -/
def idleStep (s : State) : State :=
  match s.offers with
  | [] => s
  | w :: ws => accept w { s with offers := ws }

/-- Whether an input is an answer of the transport. -/
def Input.isAnswer : Input → Bool
  | .answer _ => true
  | .chip _ _ => false
  | .reset _ => false
  | .quiet => false

/-- A word stands as the command just accepted, and nothing comes between it and the next step. -/
def placeCommand (w : CommandWord) (s : State) : State :=
  accept w { s with inputs := s.inputs.dropWhile (fun x => !x.isAnswer) }

end Sys2Proof.Machine
end

