-- ==== Sys2Proof/Machine/Block.lean ====
section
/-! DEFINITION. The block's own step, and whose turn it is (spec/10_state.md R30-R34;
spec/70_reset_and_hazards.md R190). -/

namespace Sys2Proof.Machine

/-- The block's step. Busy, it performs the micro-step of its command (R31), or refuses the command when its opcode is
none of the fourteen (R164); idle, it accepts a command or does nothing (R30, R34). -/
def blockStep (s : State) : Host.Outcome State Fault Refusal :=
  if s.busy then
    match decode (currentWord s) with
    | some i => exec i s
    | none => .next (raiseIllegalCommand s)
  else .next (idleStep s)

/-- An outcome whose next state has these inputs left. -/
def leaveInputs (rest : List Input) : Host.Outcome State Fault Refusal → Host.Outcome State Fault Refusal
  | .next s => .next { s with inputs := rest }
  | .fault e => .fault e
  | .refused e => .refused e

/-- The block's step while the outside is silent: no answer is there to take, whatever comes later. -/
def quietStep (rest : List Input) (s : State) : Host.Outcome State Fault Refusal :=
  leaveInputs rest (blockStep { s with inputs := [] })

/-- One step of the machine: the next input says who moves (notes/assumptions/7.md). The chip, another master or the
reset pin moves by itself; a silence lets the block move without an answer; else the block moves, and takes the
answer when its micro-step is a transaction. -/
def turn (s : State) : Host.Outcome State Fault Refusal :=
  match s.inputs with
  | .chip reg v :: rest => .next (chipChanges reg v { s with inputs := rest })
  | .reset d :: rest => .next (resetBlock d { s with inputs := rest })
  | .quiet :: rest => quietStep rest s
  | _ => blockStep s

end Sys2Proof.Machine
end

