-- ==== Sys2Proof/Machine/Step.lean ====
section
/-! DEFINITION. The step relation (spec/10_state.md R30-R34) and where a command is placed to run next. -/

namespace Sys2Proof.Machine

/-- One step (R30-R34, R190). -/
def step (s : State) : Host.Outcome State Fault Refusal := turn s

/-- The state whose next step runs the instruction of these bits: the command has just been accepted (R30). The
block fetches from no memory (R67); notes/assumptions/5.md says how a program comes to run from reset. -/
def State.withFetchWord (s : State) (nbits w : Nat) : State := placeCommand (BitVec.ofNat 40 (w % 2 ^ nbits)) s

end Sys2Proof.Machine
end

