-- ==== Sys2Proof/Machine/Assembler.lean ====
section
/-! DEFINITION. The assembler's line syntax and the pseudo-operations (spec/30_encoding.md R90-R92). They stand on
the host's side: the block sees command words only. -/

namespace Sys2Proof.Machine

/-- An operation that takes no operand. -/
def build0 (i : Instr) : List Byte → Option Instr
  | [] => some i
  | _ :: _ => none

/-- An operation of one operand. -/
def build1 (f : Byte → Instr) : List Byte → Option Instr
  | [x] => some (f x)
  | _ => none

/-- An operation of two operands. -/
def build2 (f : Byte → Byte → Instr) : List Byte → Option Instr
  | [x, y] => some (f x y)
  | _ => none

/-- An operation of three operands. -/
def build3 (f : Byte → Byte → Byte → Instr) : List Byte → Option Instr
  | [x, y, z] => some (f x y z)
  | _ => none

/-- An operation of four operands. -/
def build4 (f : Byte → Byte → Byte → Byte → Instr) : List Byte → Option Instr
  | [x, y, z, u] => some (f x y z u)
  | _ => none

/-- A mnemonic and the operation it stands for with its operands in the order of R82. -/
structure AssemblyRow where
  mnemonic : String
  build : List Byte → Option Instr

/-- The fourteen mnemonics (R83, R90). -/
def assemblyTable : List AssemblyRow :=
  [ ⟨"INIT", build0 .init⟩,
    ⟨"SETDATE", build4 .setdate⟩,
    ⟨"SETTIME", build3 .settime⟩,
    ⟨"GETSEC", build0 .getsec⟩,
    ⟨"GETMIN", build0 .getmin⟩,
    ⟨"GETHOUR", build0 .gethour⟩,
    ⟨"GETWDAY", build0 .getwday⟩,
    ⟨"GETDAY", build0 .getday⟩,
    ⟨"GETMON", build0 .getmon⟩,
    ⟨"GETYEAR", build0 .getyear⟩,
    ⟨"RDRAW", build1 .rdraw⟩,
    ⟨"WRRAW", build2 .wrraw⟩,
    ⟨"D2B", build1 .d2b⟩,
    ⟨"B2D", build1 .b2d⟩ ]

/-- A source line as the command it stands for (R82, R83, R90); none where the assembler refuses the line. -/
def assemble (l : SourceLine) : Option Instr :=
  if l.operandsFit then
    (assemblyTable.find? (fun row => row.mnemonic == l.mnemonic)).bind
      (fun row => row.build (l.operands.map (BitVec.ofNat 8)))
  else none

/-- Space and tab (notes/assumptions/16.md). -/
def isBlank (c : Char) : Bool := c == ' ' || c == '\t'

/-- A text without the blanks at its two ends. -/
def trimBlanks (cs : List Char) : List Char := (cs.dropWhile isBlank).reverse.dropWhile isBlank |>.reverse

/-- The digits of R90's two bases, each at the place of its value. -/
def digitOrder : List Char := "0123456789ABCDEF".toList

/-- The value of a digit in a base of at most 16; letters in either case (notes/assumptions/8.md). -/
def digitValue (base : Nat) (c : Char) : Option Nat := (digitOrder.take base).idxOf? c.toUpper

/-- Digits of a base read left to right onto the value so far. -/
def readDigits (base : Nat) : List Char → Nat → Option Nat
  | [], n => some n
  | c :: cs, n => (digitValue base c).bind fun d => readDigits base cs (n * base + d)

/-- "A number is decimal, or hexadecimal with `0x`" (R90). -/
def readNumber : List Char → Option Nat
  | [] => none
  | ['0', 'x'] => none
  | '0' :: 'x' :: cs => readDigits 16 cs 0
  | cs => readDigits 10 cs 0

/-- A text cut at its commas. -/
def splitCommas : List Char → List (List Char)
  | [] => [[]]
  | c :: cs =>
    if c = ',' then [] :: splitCommas cs
    else
      match splitCommas cs with
      | [] => [[c]]
      | part :: parts => (c :: part) :: parts

/-- The operands of a line, "separated by commas" (R90). -/
def readOperands (cs : List Char) : Option (List Nat) :=
  if cs.isEmpty then some [] else (splitCommas cs).mapM fun part => readNumber (trimBlanks part)

/-- What the assembler makes of one line. -/
inductive AsmResult where
  /-- Nothing but blanks or a comment. -/
  | blank
  /-- One command. -/
  | command (i : Instr)
  /-- The line is refused. -/
  | lineRefused
  deriving DecidableEq, Repr

/-- One line of text (R90): a comment from `;` on, the mnemonic, then the operands. -/
def assembleLine (text : String) : AsmResult :=
  let cs := trimBlanks (text.toList.takeWhile (fun c => c != ';'))
  if cs.isEmpty then .blank
  else
    let mnemonic := String.ofList (cs.takeWhile (fun c => !isBlank c))
    match readOperands (trimBlanks (cs.dropWhile (fun c => !isBlank c))) with
    | none => .lineRefused
    | some operands =>
      match assemble ⟨mnemonic, operands⟩ with
      | none => .lineRefused
      | some i => .command i

/-- The pseudo-operations (R92): compositions of getters done by the host. -/
inductive PseudoOp where
  | formatTime
  | formatDate
  | formatTimestamp
  deriving DecidableEq, Repr

/-- The commands a pseudo-operation expands to (R92). Their order "binds nothing" (N9); this is the order
shown (notes/assumptions/14.md). -/
def PseudoOp.expand : PseudoOp → List Instr
  | .formatTime => [.gethour, .getmin, .getsec]
  | .formatDate => [.getday, .getmon, .getyear]
  | .formatTimestamp => [.getday, .getmon, .getyear, .gethour, .getmin, .getsec]

end Sys2Proof.Machine
end

