-- ==== Sys2Proof/Machine/Ports.lean ====
section
/-! DEFINITION. The block's output ports read off a state, at the transaction level (spec/10_state.md R40). The
cycle-level signals of R40 are not normative (R10; notes/assumptions/13.md); nothing here adds state. -/

namespace Sys2Proof.Machine

/-- `cmd_ready`: "equals not BUSY". -/
def cmdReady (s : State) : Bool := !s.busy

/-- `rsp_status`: STATUS. -/
def rspStatus (s : State) : Status := s.status

/-- `t_req_valid`: the block asks for one transaction. -/
def tReqValid (s : State) : Bool := (outstanding s).isSome

/-- `t_req_rw`: 1 = read, 0 = write; no value where nothing is asked for. -/
def tReqRw (s : State) : Option (BitVec 1) :=
  (outstanding s).map fun
    | .read _ _ => 1#1
    | .write _ _ _ => 0#1

/-- `t_req_dev`. -/
def tReqDev (s : State) : Option DeviceAddr :=
  (outstanding s).map fun
    | .read dev _ => dev
    | .write dev _ _ => dev

/-- `t_req_reg`. -/
def tReqReg (s : State) : Option Byte :=
  (outstanding s).map fun
    | .read _ reg => reg
    | .write _ reg _ => reg

/-- `t_req_wdata`; "meaningless on a read". -/
def tReqWdata (s : State) : Option Byte :=
  (outstanding s).bind fun
    | .read _ _ => none
    | .write _ _ v => some v

/-- The response given by the step from `s` to `s'`, its status and data, if that step completed a command (R33, R88). -/
def response (s s' : State) : Option (Status × Option Byte) :=
  match (s'.history.drop s.history.length).getLast? with
  | some (.rsp code data) => some (code, data)
  | _ => none

/-- `rsp_valid`: "high for one cycle at completion". -/
def rspValid (s s' : State) : Bool := (response s s').isSome

/-- `rsp_data`: RES where the step from `s` to `s'` gives a response with data; "no value for commands that do not write
RES", absent rather than the old RES (R26), and none where no response is given (notes/assumptions/11.md). -/
def rspData (s s' : State) : Option Byte :=
  match response s s' with
  | some (_, some _) => some s'.res
  | _ => none

end Sys2Proof.Machine
end

