-- ==== Sys2Proof/Safety.lean ====
section
/-! DEFINITION. What a safe run of the block is, in the terms the statements use: the invariant of its state, the
shape of its event history (spec/10_state.md R29), and the premises on the outside that the spec asks a model to
name (spec/20_memory.md R66, R69; spec/93_implementation_defined.md U10). -/

namespace Sys2Proof.Machine

/-! ## Premises on the outside -/

/-- The next `k` inputs are answers of the transport. It is the fairness assumption of R69 for `k` requests, and the
exclusive use of the peripheral of U10: no other agent moves in between. -/
def Answered (k : Nat) (s : State) : Prop :=
  ∃ answers : List Answer, answers.length = k ∧ ∃ rest, s.inputs = answers.map Input.answer ++ rest

/-- It is the block's turn, and an answer may be taken: the next input, where there is one, is the transport's. -/
def BlockMoves (s : State) : Prop := s.inputs.head?.all Input.isAnswer = true

/-! ## The invariant of the state -/

/-- How many micro-steps the command in progress has; an illegal one has the one that refuses it (R31). -/
def currentStepCount (s : State) : Nat :=
  match decode (currentWord s) with
  | some i => stepCount i
  | none => 1

/-- An event as the rules allow it: the device is DEV_ADDR (R51), STATUS 3 is never produced (R27), and only a
response with status 0 carries data (R26). -/
def Event.wellFormed : Event → Bool
  | .cmd _ => true
  | .rd dev _ _ _ => dev == devAddr
  | .wr dev _ _ _ => dev == devAddr
  | .rsp code data => code != 3#2 && (code == 0#2 || data.isNone)

/-- The invariant: the peripheral's memory is canonical, STATUS is a code of R161, SEQ.step indexes a micro-step of
the command in progress (R23), and every event is well formed. -/
abbrev State.Inv (s : State) : Prop :=
  Memory.wf s.periph ∧ s.status ≠ 3#2 ∧ (s.busy = true → s.seqStep.toNat < currentStepCount s) ∧
    ∀ e ∈ s.history, e.wellFormed = true

/-- `n` steps from `s`; a fault or a refusal ends them. -/
def runSteps : Nat → State → Host.Outcome State Fault Refusal
  | 0, s => .next s
  | n + 1, s =>
    match step s with
    | .next s' => runSteps n s'
    | .fault e => .fault e
    | .refused e => .refused e

/-- A step from `s` does not stop with a fault. -/
def Safe (s : State) : Prop := ∀ f, step s ≠ .fault f

/-! ## Reading a history -/

/-- Where the reader of a history stands (R29). -/
inductive Reading where
  /-- Some event broke the rules. -/
  | broken
  /-- No command is open. -/
  | closed
  /-- A command is open before its micro-step `k`; `t` is the byte its latest read returned. -/
  | opened (w : CommandWord) (k : Nat) (t : Byte)
  /-- The command's transactions are at their end, and this response must come next. -/
  | due (code : Status) (data : Option Byte)
  deriving DecidableEq, Repr

/-- The micro-step a command word stands at, given the byte in T; an illegal word has none (R31, R164). -/
def wordMicroStep (p : Params) (w : CommandWord) (k : Nat) (t : Byte) : Option MicroStep :=
  (decode w).bind fun i => (microProgram i p t)[k]?

/-- Reading on after a transaction that does not abort: status 0 with no data is due after the last one, else the next
micro-step is (R32). -/
def Reading.advance (w : CommandWord) (k : Nat) (t : Byte) : Reading :=
  if (decode w).any (fun i => k + 1 == stepCount i) then .due statusOk none else .opened w (k + 1) t

/-- Reading a read transaction's byte. A merge's failed read is surfaced or not as the parameter says (R166); a
getter's and RDRAW's never is, and gives the data (R120, R135, R165). -/
def Reading.afterRead (p : Params) (w : CommandWord) (k : Nat) (use : ReadUse) (err : Bool) (b : Byte) : Reading :=
  match use with
  | .merge => if err && p.rmwReadErrAborts then .due statusTransportError none else .advance w k b
  | .decoded mask => .due statusOk (some (b2d (b &&& mask)))
  | .raw => .due statusOk (some b)

/-- Reading a transaction: it must be the one of the micro-step the open command stands at, on DEV_ADDR, with the value
that micro-step writes (R29, R51); a failed write calls for status 1 (R163). -/
def Reading.transaction (p : Params) (w : CommandWord) (k : Nat) (t : Byte) (e : Event) : Reading :=
  match wordMicroStep p w k t, e with
  | some (.read reg use), .rd dev r err b => if dev = devAddr ∧ r = reg then .afterRead p w k use err b else .broken
  | some (.write reg v), .wr dev r x err =>
    if dev = devAddr ∧ r = reg ∧ x = v then (if err then .due statusTransportError none else .advance w k t)
    else .broken
  | _, _ => .broken

/-- The response of an open command that has no transaction to come: status 2 of an illegal one (R164), the result of
an internal micro-step (R31). -/
def wordResponse (p : Params) (w : CommandWord) (k : Nat) (t : Byte) : Option (Status × Option Byte) :=
  match decode w, wordMicroStep p w k t with
  | none, _ => some (statusIllegalCommand, none)
  | some _, some (.internal d) => some (statusOk, some d)
  | some _, _ => none

/-- Reading one event (R29, R30, R33). A `Cmd` opens a command where none is open, or where a reset abandoned one (R190
gives a reset no event); it never stands between a command's last transaction and its response. -/
def Reading.next (p : Params) (r : Reading) (e : Event) : Reading :=
  match r, e with
  | .closed, .cmd w => .opened w 0 0#8
  | .opened _ _ _, .cmd w => .opened w 0 0#8
  | .opened w k t, .rsp code data => if wordResponse p w k t = some (code, data) then .closed else .broken
  | .opened w k t, e => .transaction p w k t e
  | .due code data, .rsp code' data' => if code' = code ∧ data' = data then .closed else .broken
  | _, _ => .broken

/-- Reading a whole history of a block with these parameters. -/
def readHistory (p : Params) (h : List Event) : Reading := h.foldl (Reading.next p) .closed

/-- The history is that of commands run one after the other, each with exactly the transactions of its micro-program,
in order, with the values written, cut short at the first that aborts, and each response the one they call for
(R29, R163 to R166); and the block's registers stand where it says. With BUSY 1 the command in progress is the open
one at SEQ.step, and the byte its latest read returned is the one T holds, as far as its micro-program depends on
T. With BUSY 0 no response is due. -/
def State.Traced (s : State) : Prop :=
  if s.busy then
    ∃ t, readHistory s.params s.history = .opened (currentWord s) s.seqStep.toNat t ∧
      (s.seqStep = 0#3 ∨
        ∀ i, decode (currentWord s) = some i → microProgram i s.params t = microProgram i s.params s.t)
  else
    readHistory s.params s.history = .closed ∨
      ∃ w k t, readHistory s.params s.history = .opened w k t

end Sys2Proof.Machine
end

