-- ==== Sys2Proof/Certificates/Slice0/Obligations.lean ====
section
/-! DEFINITION. The statements for the provers. Constants are written as the spec writes them (0x68, 0x1F, 0x93,
…), not by the model's names, wherever a statement gives a value. -/

open Sys2Proof Sys2Proof.Machine

/-! ## Words the statements share -/

namespace Sys2Proof.Claims

/-- An outcome with its next state changed. -/
def mapNext (f : State → State) : Host.Outcome State Fault Refusal → Host.Outcome State Fault Refusal
  | .next s => .next (f s)
  | .fault e => .fault e
  | .refused e => .refused e

/-- INIT, SETDATE, SETTIME and WRRAW: the operations that surface a transport failure (R161) and have no result
(R26). -/
def surfacesFailure : Instr → Bool
  | .init => true
  | .setdate _ _ _ _ => true
  | .settime _ _ _ => true
  | .wrraw _ _ => true
  | .getsec => false
  | .getmin => false
  | .gethour => false
  | .getwday => false
  | .getday => false
  | .getmon => false
  | .getyear => false
  | .rdraw _ => false
  | .d2b _ => false
  | .b2d _ => false

/-- The seven getters and RDRAW. -/
def readsOnly : Instr → Bool
  | .init => false
  | .setdate _ _ _ _ => false
  | .settime _ _ _ => false
  | .wrraw _ _ => false
  | .getsec => true
  | .getmin => true
  | .gethour => true
  | .getwday => true
  | .getday => true
  | .getmon => true
  | .getyear => true
  | .rdraw _ => true
  | .d2b _ => false
  | .b2d _ => false

/-- The micro-step that `exec i s` performs: the one of index SEQ.step in i's micro-program. -/
def microStepAt (i : Instr) (s : State) : Option MicroStep := (microProgram i s.params s.t)[s.seqStep.toNat]?

/-- The address that `exec i s` stores to, where its micro-step is a write. -/
def storeAddress (i : Instr) (s : State) : Option Nat :=
  match microStepAt i s with
  | some (.write reg _) => some reg.toNat
  | _ => none

/-- Two states with one opcode, one set of operand latches, one set of parameters and one list of offers. -/
def SameLatches (s s' : State) : Prop :=
  s'.seqOp = s.seqOp ∧ s'.a0 = s.a0 ∧ s'.a1 = s.a1 ∧ s'.a2 = s.a2 ∧ s'.a3 = s.a3 ∧ s'.params = s.params ∧
    s'.offers = s.offers

/-- The state in which a command has completed with this status and data, its inputs and history being given
(R33): RES takes the data where there is any. -/
def completed (s : State) (code : Status) (data : Option Byte) (rest : List Input) (events : List Event) : State :=
  { s with
    busy := false, status := code, res := data.getD s.res, inputs := rest,
    history := s.history ++ events ++ [.rsp code data] }

/-- What R120 says a getter does with an answer, the byte of a failed read being the draw. -/
def GetterResult (i : Instr) (reg mask : Byte) : Prop :=
  ∀ (s : State) (a : Answer) (rest : List Input),
    s.seqStep = 0#3 → s.inputs = .answer a :: rest →
      let b := if a.err then a.draw else Memory.read s.periph reg.toNat
      let d := BitVec.ofNat 8 ((b &&& mask).toNat / 16 * 10 + (b &&& mask).toNat % 16)
      exec i s = .next { completed s 0#2 (some d) rest [.rd 0x68#7 reg a.err b] with t := b }

/-- The block registers replaced by other values, everything else as it is. -/
def withRegisters (s : State) (op a0 a1 a2 a3 t res : Byte) (k : StepIndex) (code : Status) : State :=
  { s with
    seqOp := op, a0 := a0, a1 := a1, a2 := a2, a3 := a3, t := t, res := res, seqStep := k, status := code }

/-- Two outcomes that nobody outside the block can tell apart: both are next states with one history, one
peripheral and one BUSY. -/
def LooksAlike : Host.Outcome State Fault Refusal → Host.Outcome State Fault Refusal → Prop
  | .next x, .next y => x.history = y.history ∧ x.periph = y.periph ∧ x.busy = y.busy
  | _, _ => False

end Sys2Proof.Claims

open Sys2Proof.Claims

/-! ## Encoding (30_encoding.md) -/

/-- R83, R89: words written out from the spec's encoding, one of each family, decode to what they stand for. -/
def Obligations.SpecWordsDecode : Prop :=
  decode 0x0100000000#40 = some .init ∧
    decode 0x020417060F#40 = some (.setdate 15#8 6#8 23#8 4#8) ∧
    decode 0x030038220C#40 = some (.settime 12#8 34#8 56#8) ∧
    decode 0x12AABBCCDD#40 = some .gethour ∧
    decode 0x2000000007#40 = some (.rdraw 0x07#8) ∧
    decode 0x2100009307#40 = some (.wrraw 0x07#8 0x93#8) ∧
    decode 0x300000003B#40 = some (.d2b 59#8) ∧
    decode 0x3100000059#40 = some (.b2d 0x59#8) ∧
    decode 0x1700000000#40 = none

/-- R80 to R84: decoding an encoded operation gives it back, and encoding a decoded word gives the word back with its
unused fields zero. -/
def Obligations.DecodeEncodeAgree : Prop :=
  (∀ i : Instr, decode (encode i) = some i) ∧
    ∀ (w : CommandWord) (i : Instr), decode w = some i →
      (encode i).op = w.op ∧
      (encode i).a0 = (if 0 < i.operands.length then w.a0 else 0#8) ∧
      (encode i).a1 = (if 1 < i.operands.length then w.a1 else 0#8) ∧
      (encode i).a2 = (if 2 < i.operands.length then w.a2 else 0#8) ∧
      (encode i).a3 = (if 3 < i.operands.length then w.a3 else 0#8)

/-- R81: the opcode alone selects the operation, and every word is one of the fourteen operations or illegal. -/
def Obligations.OpcodeAloneSelects : Prop :=
  (∀ (w : CommandWord) (i : Instr), decode w = some i →
      i.opcode = w.op ∧ w &&& 0xFF00000000#40 = i.opcode.zeroExtend 40 <<< 32) ∧
    (∀ w v : CommandWord, w.op = v.op → (decode w).isSome = (decode v).isSome) ∧
    ∀ w : CommandWord,
      ((opcodeTable.filter (fun row => row.op == w.op)).length = 1 ∧ (decode w).isSome = true) ∨
        ((opcodeTable.filter (fun row => row.op == w.op)).length = 0 ∧ decode w = none)

/-- R85: exactly the 242 opcodes outside the fourteen are illegal; a word with one is accepted, and the next step
completes it with STATUS 2, no data and no transaction. -/
def Obligations.IllegalOpcodes : Prop :=
  (∀ w : CommandWord, decode w = none ↔
      (w.op = 0x00#8 ∨ (0x04#8 ≤ w.op ∧ w.op ≤ 0x0F#8) ∨ (0x17#8 ≤ w.op ∧ w.op ≤ 0x1F#8) ∨
        (0x22#8 ≤ w.op ∧ w.op ≤ 0x2F#8) ∨ (0x32#8 ≤ w.op ∧ w.op ≤ 0xFF#8))) ∧
    ((List.range 256).filter (fun n => (decode (commandWord (BitVec.ofNat 8 n) 0#8 0#8 0#8 0#8)).isNone)).length
      = 242 ∧
    ∀ (s : State) (w : CommandWord) (ws : List CommandWord),
      decode w = none → BlockMoves s → s.busy = false → s.offers = w :: ws →
        ∃ s1 s2, step s = .next s1 ∧ s1.busy = true ∧ step s1 = .next s2 ∧ s2.busy = false ∧ s2.status = 2#2 ∧
          s2.history = s.history ++ [.cmd w, .rsp 2#2 none] ∧ s2.periph = s.periph ∧ s2.inputs = s.inputs

/-- R84: unused operand fields are accepted whatever they hold and change nothing: words that agree in the used
fields decode alike; a command in progress with other bytes in its unused latches takes the same steps; and the
encoder puts zero there. -/
def Obligations.UnusedOperandsIgnored : Prop :=
  (∀ (w v : CommandWord) (i : Instr), decode w = some i → v.op = w.op →
      (0 < i.operands.length → v.a0 = w.a0) → (1 < i.operands.length → v.a1 = w.a1) →
      (2 < i.operands.length → v.a2 = w.a2) → (3 < i.operands.length → v.a3 = w.a3) → decode v = some i) ∧
    (∀ (s : State) (b0 b1 b2 b3 : Byte),
      s.busy = true → BlockMoves s →
      decode (commandWord s.seqOp b3 b2 b1 b0) = decode (currentWord s) →
        step { s with a0 := b0, a1 := b1, a2 := b2, a3 := b3 } =
          mapNext (fun s' => { s' with a0 := b0, a1 := b1, a2 := b2, a3 := b3 }) (step s)) ∧
    ∀ i : Instr,
      (i.operands.length ≤ 0 → (encode i).a0 = 0#8) ∧ (i.operands.length ≤ 1 → (encode i).a1 = 0#8) ∧
      (i.operands.length ≤ 2 → (encode i).a2 = 0#8) ∧ (i.operands.length ≤ 3 → (encode i).a3 = 0#8)

/-- R89: as bytes a command word is five, `op, a3, a2, a1, a0`, the hexadecimal digits of the 40-bit value read left
to right; read back from bytes it is the same word. -/
def Obligations.CommandBytesMostSignificantFirst : Prop :=
  (∀ w : CommandWord,
      wordBytes w = [w.op, w.a3, w.a2, w.a1, w.a0] ∧
      (wordBytes w).foldl (fun n b => n * 256 + b.toNat) 0 = w.toNat ∧
      ∀ rest : List Byte, decodeBytes (wordBytes w ++ rest) = (decode w).map (fun i => (i, rest))) ∧
    wordBytes 0x030038220C#40 = [0x03#8, 0x00#8, 0x38#8, 0x22#8, 0x0C#8] ∧
    encode (.settime 12#8 34#8 56#8) = 0x030038220C#40

/-- R82, R83, R90: the assembler takes exactly the well-formed lines, and gives back the operation a line was written
from. -/
def Obligations.AssemblerTakesWellFormedLines : Prop :=
  (∀ l : SourceLine, (assemble l).isSome = l.wellFormed) ∧ ∀ i : Instr, assemble i.sourceLine = some i

/-- R92: each pseudo-operation expands to exactly the getters of the fields it shows, each once; their order is left
open (N9). -/
def Obligations.FormatsExpandToGetters : Prop :=
  List.Perm PseudoOp.formatTime.expand [.gethour, .getmin, .getsec] ∧
    List.Perm PseudoOp.formatDate.expand [.getday, .getmon, .getyear] ∧
    List.Perm PseudoOp.formatTimestamp.expand [.gethour, .getmin, .getsec, .getday, .getmon, .getyear]

/-! ## The codec (44_bcd_codec.md) -/

/-- R140: the exact encoder, its range, and where it is valid BCD. -/
def Obligations.ExactEncoder : Prop :=
  ∀ n : Byte,
    (d2b9 n).toNat = n.toNat / 10 * 16 + n.toNat % 10 ∧ (d2b9 n).toNat ≤ 405 ∧
    (n.toNat ≤ 99 → (d2b9 n).toNat / 16 = n.toNat / 10 ∧ (d2b9 n).toNat % 16 = n.toNat % 10 ∧
      (d2b9 n).toNat / 16 ≤ 9 ∧ (d2b9 n).toNat % 16 ≤ 9) ∧
    (100 ≤ n.toNat ∧ n.toNat ≤ 159 →
      (d2b9 n).toNat < 256 ∧ 10 ≤ (d2b9 n).toNat / 16 ∧ (d2b9 n).toNat / 16 ≤ 15) ∧
    (160 ≤ n.toNat → 256 ≤ (d2b9 n).toNat)

/-- R141: the byte encoder drops bit 8. -/
def Obligations.ByteEncoderDropsCarry : Prop :=
  ∀ n : Byte,
    (d2b n).toNat = (n.toNat / 10 * 16 + n.toNat % 10) % 256 ∧
    (n.toNat < 160 → (d2b n).toNat = (d2b9 n).toNat) ∧ (160 ≤ n.toNat → (d2b n).toNat + 256 = (d2b9 n).toNat)

/-- R142: the decoder, its range, and that no nibble is refused. -/
def Obligations.DecoderFormula : Prop :=
  (∀ n : Byte,
      (b2d n).toNat = n.toNat / 16 * 10 + n.toNat % 16 ∧
      (b2d n).toNat = (n.extractLsb' 4 4).toNat * 10 + (n.extractLsb' 0 4).toNat ∧ (b2d n).toNat ≤ 165) ∧
    b2d 0x0A#8 = 10#8 ∧ b2d 0x1A#8 = 20#8 ∧ b2d 0xA0#8 = 100#8 ∧ b2d 0xFF#8 = 165#8

/-- R146: decoding an encoded number from 0 to 99 gives it back, as functions and as the two commands; both complete
for every byte, none being checked. -/
def Obligations.CodecRoundTrip : Prop :=
  (∀ n : Byte, n.toNat ≤ 99 → b2d (d2b n) = n) ∧
    ∀ (s q : State) (n : Byte), s.seqStep = 0#3 → q.seqStep = 0#3 →
      ∃ s' q', exec (.d2b n) s = .next s' ∧ exec (.b2d s'.res) q = .next q' ∧ (n.toNat ≤ 99 → q'.res = n)

/-- R147: the further laws of the codec. -/
def Obligations.CodecLaws : Prop :=
  (∀ n : Byte, n.toNat ≤ 159 → b2d (d2b n) = n) ∧
    (∀ n : Byte, 160 ≤ n.toNat → b2d (d2b n) = n - 160#8 ∧ b2d (d2b n) ≠ n) ∧
    (∀ x : Byte, d2b (b2d x) = x ↔ x.toNat % 16 ≤ 9) ∧
    (∀ n : Byte, (d2b9 n).toNat = n.toNat + 6 * (n.toNat / 10) ∧ (d2b n = n ↔ n.toNat ≤ 9)) ∧
    (∀ x : Byte, (b2d x).toNat + 6 * (x.toNat / 16) = x.toNat ∧ (b2d x = x ↔ x.toNat ≤ 15)) ∧
    (∀ n m : Byte, n.toNat < m.toNat → (d2b9 n).toNat < (d2b9 m).toNat) ∧
    (∀ n m : Byte, n.toNat ≤ 159 → m.toNat ≤ 159 → d2b n = d2b m → n = m) ∧
    ∀ x : Byte, (b2d (x &&& 0x7F#8)).toNat ≤ 85 ∧ (b2d (x &&& 0x3F#8)).toNat ≤ 45

/-! ## The step relation (10_state.md) -/

/-- R31: when the block moves and the word in SEQ.op and the latches decodes to an operation, the step is that
operation's. -/
def Obligations.StepRunsDecodedInstruction : Prop :=
  ∀ (s : State) (i : Instr),
    BlockMoves s → s.busy = true → decode (currentWord s) = some i → step s = exec i s

/-- R30: acceptance latches the opcode and the operands, sets SEQ.step to 0 and BUSY to 1, records `Cmd(w)` and
changes nothing else; while BUSY is 1 the offered words are not looked at. -/
def Obligations.AcceptanceLatchesCommand : Prop :=
  (∀ (s : State) (w : CommandWord) (ws : List CommandWord),
      BlockMoves s → s.busy = false → s.offers = w :: ws →
        step s = .next { s with
          busy := true, seqOp := w.extractLsb' 32 8, a3 := w.extractLsb' 24 8, a2 := w.extractLsb' 16 8,
          a1 := w.extractLsb' 8 8, a0 := w.extractLsb' 0 8, seqStep := 0#3, offers := ws,
          history := s.history ++ [.cmd w] }) ∧
    ∀ (s : State) (ws : List CommandWord),
      s.busy = true → step { s with offers := ws } = mapNext (fun s' => { s' with offers := ws }) (step s)

/-- R34: with BUSY 0 and no command offered no state changes. -/
def Obligations.IdleBlockHasNoStep : Prop :=
  ∀ s : State, BlockMoves s → s.busy = false → s.offers = [] → step s = .next s

/-- R32, R69: a command whose transaction has no answer stays at its micro-step with BUSY 1; nothing changes. That
"no answer" is an empty list of inputs is the model's (notes/assumptions/1.md). -/
def Obligations.BlockWaitsForAnswer : Prop :=
  ∀ (s : State) (r : Request), outstanding s = some r → s.inputs = [] → step s = .next s

/-- R31, R32: in a silence of the outside the block takes the step it takes with no input at all, so a transaction
waits and everything else goes on; the later inputs stay. That a silence is an input is the model's
(notes/assumptions/7.md). -/
def Obligations.SilenceLetsTheBlockMove : Prop :=
  ∀ (s : State) (rest : List Input), s.inputs = .quiet :: rest →
    step s = mapNext (fun s' => { s' with inputs := rest }) (step { s with inputs := [] })

/-- R23, R24, R22: while a command runs, SEQ.op and the latches are constant and SEQ.step stays or grows by 1, never
past 4. -/
def Obligations.SequencerNeverGoesBack : Prop :=
  ∀ s s' : State, step s = .next s' → s.busy = true → s'.busy = true → s.seqStep.toNat < currentStepCount s →
    currentWord s' = currentWord s ∧
      (s'.seqStep = s.seqStep ∨ s'.seqStep.toNat = s.seqStep.toNat + 1) ∧ s'.seqStep.toNat ≤ 4

/-- R53, R54, R51: an answered request is recorded as a transaction of exactly the requested kind on device 0x68 at
the requested register, with the requested value if it writes, and nothing but the command's response may follow it in
that step. -/
def Obligations.AnsweredRequestIsRecorded : Prop :=
  ∀ (s : State) (a : Answer) (rest : List Input) (dev : DeviceAddr) (reg v : Byte),
    s.inputs = .answer a :: rest →
      (outstanding s = some (.read dev reg) →
        dev = 0x68#7 ∧ ∃ s' b more, step s = .next s' ∧ s'.inputs = rest ∧ s'.t = b ∧
          s'.history = s.history ++ .rd dev reg a.err b :: more ∧
          (more = [] ∨ ∃ code data, more = [.rsp code data]) ∧
          (a.err = false → reg.toNat < 8 → b = Memory.read s.periph reg.toNat) ∧ (a.err = true → b = a.draw)) ∧
      (outstanding s = some (.write dev reg v) →
        dev = 0x68#7 ∧ ∃ s' more, step s = .next s' ∧ s'.inputs = rest ∧
          s'.history = s.history ++ .wr dev reg v a.err :: more ∧
          (more = [] ∨ ∃ code data, more = [.rsp code data]) ∧
          (Memory.wf s.periph → reg.toNat < 8 →
            Memory.read s'.periph reg.toNat = if a.err then a.draw else v))

/-- R48, R201: a change of the peripheral by the chip or another master touches that register only; the block's
registers and the history stay, and no transaction is issued. That it is a step of its own is the model's
(notes/assumptions/7.md). -/
def Obligations.ChipChangesOneRegister : Prop :=
  ∀ (s : State) (reg v : Byte) (rest : List Input), s.inputs = .chip reg v :: rest →
    ∃ m, step s = .next { s with periph := m, inputs := rest } ∧
      (Memory.wf s.periph → reg.toNat < 8 → Memory.read m reg.toNat = v) ∧
      ∀ a, a ≠ reg.toNat → Memory.read m a = Memory.read s.periph a

/-- R8, R28: no step changes the parameters. -/
def Obligations.ParametersNeverChange : Prop :=
  ∀ s s' : State, step s = .next s' → s'.params = s.params

/-- R29, R31: a step only adds events to the history, at most a transaction and a response. -/
def Obligations.HistoryOnlyGrows : Prop :=
  ∀ s s' : State, step s = .next s' →
    ∃ events, s'.history = s.history ++ events ∧ events.length ≤ 2 ∧ ∀ e ∈ events, e.wellFormed = true

/-! ## INIT (40_initialize.md) -/

/-- R100, R166: INIT from its first micro-step, its writes answered without failure and its read too, or, where
RMW_READ_ERR_ABORTS is false, failing: then the drawn byte is merged and written back (vector I10). -/
def Obligations.InitCompletes : Prop :=
  ∀ (s : State) (x y z : Answer) (rest : List Input),
    s.seqStep = 0#3 → s.inputs = .answer x :: .answer y :: .answer z :: rest →
    (x.err = true → s.params.rmwReadErrAborts = false) → y.err = false → z.err = false →
      let h := if x.err then x.draw else Memory.read s.periph 2
      let v := (h &&& 0x1F#8) ||| (s.params.modeConst &&& 0xE0#8)
      ∃ s1 s2, exec .init s = .next s1 ∧ exec .init s1 = .next s2 ∧
        exec .init s2 = .next
          { completed s 0#2 none rest
              [.rd 0x68#7 0x02#8 x.err h, .wr 0x68#7 0x02#8 v false, .wr 0x68#7 0x07#8 0x93#8 false] with
            t := h, seqStep := 2#3, periph := Memory.write (Memory.write s.periph 2 v) 7 0x93#8 }

/-- R100, R163, R166: INIT at each micro-step when its transaction fails, a failed read being surfaced. -/
def Obligations.InitAborts : Prop :=
  ∀ (s : State) (a : Answer) (rest : List Input), s.inputs = .answer a :: rest → a.err = true →
    (s.seqStep = 0#3 → s.params.rmwReadErrAborts = true →
      exec .init s = .next { completed s 1#2 none rest [.rd 0x68#7 0x02#8 true a.draw] with t := a.draw }) ∧
    (s.seqStep = 1#3 →
      exec .init s = .next
        { completed s 1#2 none rest
            [.wr 0x68#7 0x02#8 ((s.t &&& 0x1F#8) ||| (s.params.modeConst &&& 0xE0#8)) true] with
          periph := Memory.write s.periph 2 a.draw }) ∧
    (s.seqStep = 2#3 →
      exec .init s = .next
        { completed s 1#2 none rest [.wr 0x68#7 0x07#8 0x93#8 true] with
          periph := Memory.write s.periph 7 a.draw })

/-- R100 corner case b: INIT on registers that already hold what an INIT writes leaves every register as it was. -/
def Obligations.InitIsIdempotent : Prop :=
  ∀ (s : State) (x y z : Answer) (rest : List Input) (old : Byte),
    Memory.wf s.periph → s.seqStep = 0#3 → s.inputs = .answer x :: .answer y :: .answer z :: rest →
    x.err = false → y.err = false → z.err = false →
    Memory.read s.periph 2 = (old &&& 0x1F#8) ||| (s.params.modeConst &&& 0xE0#8) →
    Memory.read s.periph 7 = 0x93#8 →
      ∃ s1 s2 s3, exec .init s = .next s1 ∧ exec .init s1 = .next s2 ∧ exec .init s2 = .next s3 ∧
        s3.busy = false ∧ s3.status = 0#2 ∧ ∀ a, Memory.read s3.periph a = Memory.read s.periph a

/-- R201: INIT's write-back is computed from the byte its read returned, whatever the hours register became in
between; the other change is lost, and the write reports no failure. -/
def Obligations.InitWritesBackStaleHours : Prop :=
  ∀ (s : State) (x y : Answer) (rest : List Input) (other : Byte),
    Memory.wf s.periph → s.seqStep = 0#3 → s.busy = true → decode (currentWord s) = some .init →
    s.inputs = .answer x :: .chip 0x02#8 other :: .answer y :: rest → x.err = false → y.err = false →
      ∃ s1 s2 s3, step s = .next s1 ∧ step s1 = .next s2 ∧ step s2 = .next s3 ∧
        Memory.read s2.periph 2 = other ∧
        Memory.read s3.periph 2 = (Memory.read s.periph 2 &&& 0x1F#8) ||| (s.params.modeConst &&& 0xE0#8) ∧
        s3.busy = true ∧ s3.seqStep = 2#3

/-! ## SETDATE and SETTIME (41_set_date_time.md) -/

/-- R201: SETTIME's two write-backs, of the hours (micro-steps 0 and 1) and of the seconds (3 and 4), are computed from
the byte their read returned, whatever the register became in between; the other change is lost, and no failure is
reported. -/
def Obligations.SetTimeWritesBackStaleBytes : Prop :=
  ∀ (s : State) (hour minute second : Byte) (x y : Answer) (rest : List Input) (other : Byte),
    Memory.wf s.periph → s.busy = true → decode (currentWord s) = some (.settime hour minute second) →
    x.err = false → y.err = false →
      (s.seqStep = 0#3 → s.inputs = .answer x :: .chip 0x02#8 other :: .answer y :: rest →
        ∃ s1 s2 s3, step s = .next s1 ∧ step s1 = .next s2 ∧ step s2 = .next s3 ∧
          Memory.read s2.periph 2 = other ∧
          Memory.read s3.periph 2 = d2b (Memory.read s.periph 2 ||| hour) ∧ s3.busy = true ∧ s3.seqStep = 2#3) ∧
      (s.seqStep = 3#3 → s.inputs = .answer x :: .chip 0x00#8 other :: .answer y :: rest →
        let keep := if s.params.secKeepMask = .flagOnly then 0x80#8 else 0xFF#8
        ∃ s1 s2 s3, step s = .next s1 ∧ step s1 = .next s2 ∧ step s2 = .next s3 ∧
          Memory.read s2.periph 0 = other ∧
          Memory.read s3.periph 0 = d2b ((Memory.read s.periph 0 &&& keep) ||| second) ∧ s3.busy = false ∧
          s3.status = 0#2)

/-- R110: SETDATE from its first micro-step, its four writes answered without failure: date-day, month, year,
week-day. -/
def Obligations.SetDateCompletes : Prop :=
  ∀ (s : State) (day month year weekDay : Byte) (x y z u : Answer) (rest : List Input),
    s.seqStep = 0#3 → s.inputs = .answer x :: .answer y :: .answer z :: .answer u :: rest →
    x.err = false → y.err = false → z.err = false → u.err = false →
      ∃ s1 s2 s3, exec (.setdate day month year weekDay) s = .next s1 ∧
        exec (.setdate day month year weekDay) s1 = .next s2 ∧
        exec (.setdate day month year weekDay) s2 = .next s3 ∧
        exec (.setdate day month year weekDay) s3 = .next
          { completed s 0#2 none rest
              [.wr 0x68#7 0x04#8 (d2b day) false, .wr 0x68#7 0x05#8 (d2b month) false,
               .wr 0x68#7 0x06#8 (d2b year) false, .wr 0x68#7 0x03#8 (d2b weekDay) false] with
            seqStep := 3#3,
            periph := Memory.write (Memory.write (Memory.write (Memory.write s.periph 4 (d2b day)) 5 (d2b month))
              6 (d2b year)) 3 (d2b weekDay) }

/-- R110, R163: SETDATE at each micro-step when its write fails: the later writes are not attempted, the register
aimed at holds the draw. -/
def Obligations.SetDateAborts : Prop :=
  ∀ (s : State) (day month year weekDay : Byte) (a : Answer) (rest : List Input),
    s.inputs = .answer a :: rest → a.err = true →
      ∀ row ∈ [((0 : Nat), 0x04#8, day), (1, 0x05#8, month), (2, 0x06#8, year), (3, 0x03#8, weekDay)],
        s.seqStep.toNat = row.1 →
          exec (.setdate day month year weekDay) s = .next
            { completed s 1#2 none rest [.wr 0x68#7 row.2.1 (d2b row.2.2) true] with
              periph := Memory.write s.periph row.2.1.toNat a.draw }

/-- R111, R166: SETTIME from its first micro-step, its writes answered without failure and each of its reads too, or,
where RMW_READ_ERR_ABORTS is false, failing: then the drawn byte is merged and written back (vectors SF6, SF7). The
hours byte written is the encoding of the whole old byte ORed with the hour; the seconds byte that of the kept bits
ORed with the second. -/
def Obligations.SetTimeCompletes : Prop :=
  ∀ (s : State) (hour minute second : Byte) (x y z u v : Answer) (rest : List Input),
    s.seqStep = 0#3 → s.inputs = .answer x :: .answer y :: .answer z :: .answer u :: .answer v :: rest →
    (x.err = true ∨ u.err = true → s.params.rmwReadErrAborts = false) →
    y.err = false → z.err = false → v.err = false →
      let oldHours := if x.err then x.draw else Memory.read s.periph 2
      let oldSeconds := if u.err then u.draw else Memory.read s.periph 0
      let keep := if s.params.secKeepMask = .flagOnly then 0x80#8 else 0xFF#8
      let mh := d2b (oldHours ||| hour)
      let ms := d2b ((oldSeconds &&& keep) ||| second)
      ∃ s1 s2 s3 s4, exec (.settime hour minute second) s = .next s1 ∧
        exec (.settime hour minute second) s1 = .next s2 ∧
        exec (.settime hour minute second) s2 = .next s3 ∧
        exec (.settime hour minute second) s3 = .next s4 ∧
        exec (.settime hour minute second) s4 = .next
          { completed s 0#2 none rest
              [.rd 0x68#7 0x02#8 x.err oldHours, .wr 0x68#7 0x02#8 mh false, .wr 0x68#7 0x01#8 (d2b minute) false,
               .rd 0x68#7 0x00#8 u.err oldSeconds, .wr 0x68#7 0x00#8 ms false] with
            t := oldSeconds, seqStep := 4#3,
            periph := Memory.write (Memory.write (Memory.write s.periph 2 mh) 1 (d2b minute)) 0 ms }

/-- R111, R163, R166: SETTIME at each micro-step when its transaction fails, a failed read being surfaced. -/
def Obligations.SetTimeAborts : Prop :=
  ∀ (s : State) (hour minute second : Byte) (a : Answer) (rest : List Input),
    s.inputs = .answer a :: rest → a.err = true →
    let keep := if s.params.secKeepMask = .flagOnly then 0x80#8 else 0xFF#8
    (∀ row ∈ [((0 : Nat), 0x02#8), (3, 0x00#8)], s.seqStep.toNat = row.1 → s.params.rmwReadErrAborts = true →
      exec (.settime hour minute second) s = .next
        { completed s 1#2 none rest [.rd 0x68#7 row.2 true a.draw] with t := a.draw }) ∧
    ∀ row ∈ [((1 : Nat), 0x02#8, s.t ||| hour), (2, 0x01#8, minute), (4, 0x00#8, (s.t &&& keep) ||| second)],
      s.seqStep.toNat = row.1 →
        exec (.settime hour minute second) s = .next
          { completed s 1#2 none rest [.wr 0x68#7 row.2.1 (d2b row.2.2) true] with
            periph := Memory.write s.periph row.2.1.toNat a.draw }

/-- R166 with RMW_READ_ERR_ABORTS false: a failed read inside INIT or SETTIME is not reported; T takes the drawn
byte and the command goes on; what it then writes back is in InitCompletes and SetTimeCompletes. -/
def Obligations.IgnoredReadFailureGoesOn : Prop :=
  ∀ (s : State) (hour minute second : Byte) (a : Answer) (rest : List Input),
    s.inputs = .answer a :: rest → a.err = true → s.params.rmwReadErrAborts = false →
      (s.seqStep = 0#3 →
        exec .init s = .next { s with
          t := a.draw, seqStep := 1#3, inputs := rest,
          history := s.history ++ [.rd 0x68#7 0x02#8 true a.draw] } ∧
        exec (.settime hour minute second) s = .next { s with
          t := a.draw, seqStep := 1#3, inputs := rest,
          history := s.history ++ [.rd 0x68#7 0x02#8 true a.draw] }) ∧
      (s.seqStep = 3#3 →
        exec (.settime hour minute second) s = .next { s with
          t := a.draw, seqStep := 4#3, inputs := rest,
          history := s.history ++ [.rd 0x68#7 0x00#8 true a.draw] })

/-- R111 corner cases a and f, R206: from an hours byte of 0x00 and, with the default SEC_KEEP_MASK, a clear halt
flag, SETTIME makes the registers decode to the time it was given. -/
def Obligations.SetTimeOnClearedRegistersReadsBack : Prop :=
  ∀ (s : State) (hour minute second : Byte) (x y z u v : Answer) (rest : List Input),
    Memory.wf s.periph → s.seqStep = 0#3 →
    s.inputs = .answer x :: .answer y :: .answer z :: .answer u :: .answer v :: rest →
    x.err = false → y.err = false → z.err = false → u.err = false → v.err = false →
    s.params.secKeepMask = .flagOnly → Memory.read s.periph 2 = 0x00#8 →
    Memory.read s.periph 0 &&& 0x80#8 = 0#8 → hour.toNat ≤ 23 → minute.toNat ≤ 59 → second.toNat ≤ 59 →
      ∃ s1 s2 s3 s4 s5, exec (.settime hour minute second) s = .next s1 ∧
        exec (.settime hour minute second) s1 = .next s2 ∧ exec (.settime hour minute second) s2 = .next s3 ∧
        exec (.settime hour minute second) s3 = .next s4 ∧ exec (.settime hour minute second) s4 = .next s5 ∧
        s5.status = 0#2 ∧
        b2d (Memory.read s5.periph 2 &&& 0x3F#8) = hour ∧ b2d (Memory.read s5.periph 1) = minute ∧
        b2d (Memory.read s5.periph 0 &&& 0x7F#8) = second ∧ Memory.read s5.periph 0 &&& 0x80#8 = 0#8

/-- R204: with SEC_KEEP_MASK 0x80 and the halt flag set, the last micro-step of SETTIME writes `D2B(128 + second)`,
and for a second below 60 its bit 7 is set exactly for seconds 0 to 31. -/
def Obligations.SetTimeOnHaltedChip : Prop :=
  ∀ (s : State) (hour minute second : Byte) (a : Answer) (rest : List Input),
    Memory.wf s.periph → s.seqStep = 4#3 → s.inputs = .answer a :: rest → a.err = false →
    s.params.secKeepMask = .flagOnly → s.t &&& 0x80#8 = 0x80#8 → second.toNat ≤ 59 →
      ∃ s', exec (.settime hour minute second) s = .next s' ∧ s'.status = 0#2 ∧
        Memory.read s'.periph 0 = d2b (BitVec.ofNat 8 (128 + second.toNat)) ∧
        Memory.read s'.periph 0 ≠ d2b second ∧
        (Memory.read s'.periph 0 &&& 0x80#8 = 0x80#8 ↔ second.toNat ≤ 31)

/-! ## The getters (42_getters.md), raw access (43_raw_access.md), the codec commands (44_bcd_codec.md) -/

/-- R120 to R127, R165: each getter, with its register and its mask, completes with STATUS 0 whether its read failed
or not; a failed read's byte is the draw. -/
def Obligations.GettersComplete : Prop :=
  GetterResult .getsec 0x00#8 0x7F#8 ∧ GetterResult .getmin 0x01#8 0xFF#8 ∧
    GetterResult .gethour 0x02#8 0x3F#8 ∧ GetterResult .getwday 0x03#8 0xFF#8 ∧
    GetterResult .getday 0x04#8 0xFF#8 ∧ GetterResult .getmon 0x05#8 0xFF#8 ∧
    GetterResult .getyear 0x06#8 0xFF#8

/-- R135, R165, U5: RDRAW completes with STATUS 0 and the byte unchanged: that of a named register where the read
succeeds, else the draw. That an unnamed address answers the draw is the model's reading of U5
(notes/assumptions/6.md). -/
def Obligations.RdrawCompletes : Prop :=
  ∀ (s : State) (addr : Byte) (a : Answer) (rest : List Input),
    s.seqStep = 0#3 → s.inputs = .answer a :: rest →
      let b := if a.err = false ∧ addr.toNat < 8 then Memory.read s.periph addr.toNat else a.draw
      exec (.rdraw addr) s =
        .next { completed s 0#2 (some b) rest [.rd 0x68#7 addr a.err b] with t := b }

/-- R136, U5: WRRAW whose write succeeds gives the register the value as it is; at 0x08 to 0xFF no named register
changes (the model's reading of U5: notes/assumptions/6.md). -/
def Obligations.WrrawCompletes : Prop :=
  ∀ (s : State) (addr value : Byte) (a : Answer) (rest : List Input),
    s.seqStep = 0#3 → s.inputs = .answer a :: rest → a.err = false →
      exec (.wrraw addr value) s =
        .next { completed s 0#2 none rest [.wr 0x68#7 addr value false] with
          periph := if addr.toNat < 8 then Memory.write s.periph addr.toNat value else s.periph }

/-- R136, R163, R55: WRRAW whose write fails completes with STATUS 1; the register aimed at holds the draw. -/
def Obligations.WrrawAborts : Prop :=
  ∀ (s : State) (addr value : Byte) (a : Answer) (rest : List Input),
    s.seqStep = 0#3 → s.inputs = .answer a :: rest → a.err = true →
      exec (.wrraw addr value) s =
        .next { completed s 1#2 none rest [.wr 0x68#7 addr value true] with
          periph := if addr.toNat < 8 then Memory.write s.periph addr.toNat a.draw else s.periph }

/-- R143, R144: the codec commands complete with no transaction; T, the peripheral and the inputs stay. -/
def Obligations.CodecCommandsComplete : Prop :=
  ∀ (s : State) (n : Byte), s.seqStep = 0#3 →
    exec (.d2b n) s =
        .next (completed s 0#2 (some (BitVec.ofNat 8 (n.toNat / 10 * 16 + n.toNat % 10))) s.inputs []) ∧
      exec (.b2d n) s =
        .next (completed s 0#2 (some (BitVec.ofNat 8 (n.toNat / 16 * 10 + n.toNat % 16))) s.inputs [])

/-! ## Frames -/

/-- R120, R135: a getter or RDRAW leaves every byte of the peripheral, the latches and SEQ.step alone. -/
def Obligations.ReadersFrame : Prop :=
  ∀ (i : Instr) (s s' : State), readsOnly i = true → exec i s = .next s' →
    SameLatches s s' ∧ s'.seqStep = s.seqStep ∧ ∀ a, Memory.read s'.periph a = Memory.read s.periph a

/-- R143, R144: D2B and B2D change BUSY, STATUS, RES and the history only. -/
def Obligations.CodecFrame : Prop :=
  ∀ (n : Byte) (s s' : State), exec (.d2b n) s = .next s' ∨ exec (.b2d n) s = .next s' →
    SameLatches s s' ∧ s'.seqStep = s.seqStep ∧ s'.t = s.t ∧ s'.inputs = s.inputs ∧ s'.busy = false ∧
      s'.status = 0#2 ∧ ∀ a, Memory.read s'.periph a = Memory.read s.periph a

/-- R100, R110, R111, R136: INIT, SETDATE, SETTIME and WRRAW leave RES, the latches and every byte of the peripheral
other than the one their micro-step writes alone; a micro-step that writes leaves T, and SETDATE and WRRAW always
do. STATUS stays until the completion writes it. That the eight named registers stay when WRRAW is given 0x08 to 0xFF is
the model's reading of U5 (notes/assumptions/6.md). -/
def Obligations.WritersFrame : Prop :=
  ∀ (i : Instr) (s s' : State), surfacesFailure i = true → exec i s = .next s' →
    SameLatches s s' ∧ s'.res = s.res ∧
      (∀ a, storeAddress i s ≠ some a → Memory.read s'.periph a = Memory.read s.periph a) ∧
      ((storeAddress i s).isSome = true → s'.t = s.t) ∧
      (∀ day month year weekDay, i = .setdate day month year weekDay → s'.t = s.t) ∧
      (∀ addr value, i = .wrraw addr value → s'.t = s.t ∧ storeAddress i s = some addr.toNat) ∧
      (s'.busy = true → s'.status = s.status)

/-! ## Errors (60_exceptions.md) -/

/-- R164: a command whose opcode is none of the fourteen is refused in its first and only micro-step: STATUS 2, BUSY
0, `Rsp(2)` with no data, no transaction, and nothing else changes. -/
def Obligations.IllegalCommandRefused : Prop :=
  ∀ s : State, BlockMoves s → s.busy = true → decode (currentWord s) = none →
    step s = .next { s with status := 2#2, busy := false, history := s.history ++ [.rsp 2#2 none] }

/-- R163: a surfaced failure ends the command at once: STATUS 1, BUSY 0, the failing transaction and `Rsp(1)` are the
only new events, RES and every register other than the failing write's target keep their values. -/
def Obligations.SurfacedFailureEndsCommand : Prop :=
  ∀ (i : Instr) (s : State) (a : Answer) (rest : List Input) (u : MicroStep),
    surfacesFailure i = true → microStepAt i s = some u → s.inputs = .answer a :: rest → a.err = true →
    ((∃ reg use, u = .read reg use) → s.params.rmwReadErrAborts = true) →
      ∃ s' e, exec i s = .next s' ∧ s'.status = 1#2 ∧ s'.busy = false ∧ s'.inputs = rest ∧
        s'.history = s.history ++ [e, .rsp 1#2 none] ∧ s'.res = s.res ∧ s'.seqStep = s.seqStep ∧
        (∀ reg use, u = .read reg use → e = .rd 0x68#7 reg true a.draw ∧ s'.periph = s.periph) ∧
        (∀ reg v, u = .write reg v → e = .wr 0x68#7 reg v true ∧
          ∀ b, b ≠ reg.toNat → Memory.read s'.periph b = Memory.read s.periph b)

/-- R161, R27, R26: which STATUS and which data each operation completes with. -/
def Obligations.CompletionStatus : Prop :=
  ∀ (i : Instr) (s s' : State), exec i s = .next s' → s.busy = true → s'.busy = false →
    (surfacesFailure i = true →
      (s'.status = 0#2 ∨ s'.status = 1#2) ∧ s'.res = s.res ∧
        s'.history.getLast? = some (.rsp s'.status none)) ∧
    (surfacesFailure i = false →
      s'.status = 0#2 ∧ s'.history.getLast? = some (.rsp 0#2 (some s'.res)))

/-- R40, R26, R88: what the response port shows in a step. `rsp_valid` is high exactly when the step completes a command,
which a reset does not; then `rsp_status` and `rsp_data` are the response's, `rsp_data` being RES for an operation that
writes it and absent for one that does not and for an illegal command. That it is absent where no response is given is
the model's (notes/assumptions/11.md). -/
def Obligations.ResponsePortsShowCompletion : Prop :=
  ∀ s s' : State, step s = .next s' →
    (rspValid s s' = true ↔ s.busy = true ∧ s'.busy = false ∧ ∀ d rest, s.inputs ≠ .reset d :: rest) ∧
    (rspValid s s' = true →
      response s s' = some (rspStatus s', rspData s s') ∧
      (∀ i, decode (currentWord s) = some i →
        rspData s s' = if surfacesFailure i then none else some s'.res) ∧
      (decode (currentWord s) = none → rspData s s' = none)) ∧
    (rspValid s s' = false → rspData s s' = none)

/-! ## Reset (10_state.md R35, 70_reset_and_hazards.md R190) -/

/-- R35: after reset BUSY is 0 and STATUS is 0, and nothing is in flight. That the history is empty and that the reset
state has no input and no offer, so that it does not move, is the model's (notes/assumptions/5.md). -/
def Obligations.ResetIsIdle : Prop :=
  State.reset.busy = false ∧ State.reset.status = 0#2 ∧ State.reset.history = [] ∧
    outstanding State.reset = none ∧ step State.reset = .next State.reset

/-- R190, U9: a reset, at any point of a command, makes the block idle with STATUS 0, gives no response, issues no
transaction, and leaves every register of the peripheral alone except the target of a write in flight, which holds
any value. That the host's offers and the later inputs outlive a reset is the model's (notes/assumptions/12.md). -/
def Obligations.ResetAbandonsCommand : Prop :=
  ∀ (s : State) (d : ResetDraw) (rest : List Input), s.inputs = .reset d :: rest →
    ∃ s', step s = .next s' ∧ s'.busy = false ∧ s'.status = 0#2 ∧ s'.history = s.history ∧ s'.inputs = rest ∧
      s'.offers = s.offers ∧
      (∀ a, (∀ dev reg v, outstanding s = some (.write dev reg v) → a ≠ reg.toNat) →
        Memory.read s'.periph a = Memory.read s.periph a) ∧
      (∀ dev reg v b, Memory.wf s.periph → outstanding s = some (.write dev reg v) → reg.toNat < 8 →
        d.landed = some b → Memory.read s'.periph reg.toNat = b)

/-- R190, U9: a reset may come before the first micro-step of a command, in particular while its first transaction has
no answer: the command just accepted is abandoned with no response, and no register of the peripheral changes but the
target of its first write, if it begins with one. The byte that lands there is stated for WRRAW; for SETDATE's
register 0x04 ResetAbandonsCommand states it. The model's, not the spec's: that a silence lets the acceptance come
first (notes/assumptions/7.md); that the unanswered first write counts as in flight, and that the later offers and
inputs outlive the reset (notes/assumptions/12.md). -/
def Obligations.ResetBeforeFirstMicroStep : Prop :=
  ∀ (s : State) (w : CommandWord) (ws : List CommandWord) (d : ResetDraw) (rest : List Input),
    s.busy = false → s.offers = w :: ws → s.inputs = .quiet :: .reset d :: rest →
      ∃ s1 s2, step s = .next s1 ∧ s1.busy = true ∧ s1.seqStep = 0#3 ∧ currentWord s1 = w ∧
        step s1 = .next s2 ∧ s2.busy = false ∧ s2.status = 0#2 ∧ s2.offers = ws ∧ s2.inputs = rest ∧
        s2.history = s.history ++ [.cmd w] ∧
        (∀ a, (∀ addr value, decode w = some (.wrraw addr value) → a ≠ addr.toNat) →
          (∀ day month year weekDay, decode w = some (.setdate day month year weekDay) → a ≠ 4) →
          Memory.read s2.periph a = Memory.read s.periph a) ∧
        ∀ addr value b, Memory.wf s.periph → decode w = some (.wrraw addr value) → addr.toNat < 8 →
          d.landed = some b → Memory.read s2.periph addr.toNat = b

/-! ## The whole machine -/

/-- The invariant holds after reset. -/
def Obligations.ResetHasInvariant : Prop := State.Inv State.reset

/-- Every step keeps the invariant: the peripheral's memory canonical (the model's form: notes/assumptions/4.md),
STATUS never 3, SEQ.step inside its micro-program, every event well formed. -/
def Obligations.StepKeepsInvariant : Prop :=
  ∀ s s' : State, State.Inv s → step s = .next s' → State.Inv s'

/-- From a state with the invariant no step stops: neither a fault nor a refusal. -/
def Obligations.InvariantNeverStops : Prop :=
  ∀ s : State, State.Inv s → Safe s ∧ ∃ s', step s = .next s'

/-- The history of the reset state is that of whole commands. -/
def Obligations.ResetIsTraced : Prop := State.Traced State.reset

/-- R29, R32, R63, R163 to R166: every step keeps the history one of commands run one after the other, each with exactly
the transactions of its micro-program in micro-step order, with the values it writes, cut short at the first that
aborts, and each response, its status and its data, the one its transactions call for. -/
def Obligations.StepKeepsHistoryOfCommands : Prop :=
  ∀ s s' : State, State.Traced s → step s = .next s' → State.Traced s'

/-- R69, R210: a command offered to the idle block, with five answers next, as many as the longest command needs, is
completed within six steps, with a response, and the next offer is still there. The count of steps is the model's
(notes/assumptions/7.md). -/
def Obligations.OfferedCommandCompletes : Prop :=
  ∀ (s : State) (w : CommandWord) (ws : List CommandWord),
    s.busy = false → s.offers = w :: ws → Answered 5 s →
      ∃ k s', k ≤ 6 ∧ runSteps k s = .next s' ∧ s'.busy = false ∧ s'.offers = ws ∧
        ∃ events code data, s'.history = s.history ++ .cmd w :: events ++ [.rsp code data] ∧ events.length ≤ 5

/-- R20, R33, R169: the block keeps nothing from one command to the next. Two idle blocks that differ in any of their
registers (T, RES, STATUS, SEQ, the latches) behave alike for ever: same transactions, same responses, same
peripheral. -/
def Obligations.NoStateBetweenCommands : Prop :=
  ∀ (s : State) (op a0 a1 a2 a3 t res : Byte) (k : StepIndex) (code : Status), s.busy = false →
    ∀ n : Nat,
      LooksAlike (runSteps n s)
        (runSteps n (withRegisters s op a0 a1 a2 a3 t res k code))

/-- R64: a getter's or RDRAW's result is computed from what the register holds when it is read, never from a byte the
block remembers: two blocks at their first micro-step that agree on the peripheral and on the inputs answer alike,
whatever their other registers and their histories are. -/
def Obligations.GettersReadThePeripheral : Prop :=
  ∀ (i : Instr) (s q : State), readsOnly i = true → s.seqStep = 0#3 → q.seqStep = 0#3 →
    s.periph = q.periph → s.inputs = q.inputs → (∃ a rest, s.inputs = .answer a :: rest) →
      ∃ s' q', exec i s = .next s' ∧ exec i q = .next q' ∧ s'.res = q'.res ∧ s'.t = q'.t ∧
        s'.status = q'.status ∧ s'.history.drop s.history.length = q'.history.drop q.history.length
end

