-- ==== Sys2Proof/Laws/Decode.lean ====
section
/-! SUPPORT. The fields of a command word, and the decoder as a function of them. -/

namespace Sys2Proof

@[simp] theorem commandWord_op (op a3 a2 a1 a0 : Byte) : (commandWord op a3 a2 a1 a0).op = op := by
  ext i hi
  simp only [CommandWord.op, commandWord, BitVec.getElem_extractLsb', BitVec.getLsbD_append]
  rw [if_neg (by omega), if_neg (by omega), if_neg (by omega), if_neg (by omega),
    show 32 + i - 8 - 8 - 8 - 8 = i by omega, BitVec.getLsbD_eq_getElem hi]

@[simp] theorem commandWord_a3 (op a3 a2 a1 a0 : Byte) : (commandWord op a3 a2 a1 a0).a3 = a3 := by
  ext i hi
  simp only [CommandWord.a3, commandWord, BitVec.getElem_extractLsb', BitVec.getLsbD_append]
  rw [if_neg (by omega), if_neg (by omega), if_neg (by omega), if_pos (by omega),
    show 24 + i - 8 - 8 - 8 = i by omega, BitVec.getLsbD_eq_getElem hi]

@[simp] theorem commandWord_a2 (op a3 a2 a1 a0 : Byte) : (commandWord op a3 a2 a1 a0).a2 = a2 := by
  ext i hi
  simp only [CommandWord.a2, commandWord, BitVec.getElem_extractLsb', BitVec.getLsbD_append]
  rw [if_neg (by omega), if_neg (by omega), if_pos (by omega), show 16 + i - 8 - 8 = i by omega,
    BitVec.getLsbD_eq_getElem hi]

@[simp] theorem commandWord_a1 (op a3 a2 a1 a0 : Byte) : (commandWord op a3 a2 a1 a0).a1 = a1 := by
  ext i hi
  simp only [CommandWord.a1, commandWord, BitVec.getElem_extractLsb', BitVec.getLsbD_append]
  rw [if_neg (by omega), if_pos (by omega), show 8 + i - 8 = i by omega, BitVec.getLsbD_eq_getElem hi]

@[simp] theorem commandWord_a0 (op a3 a2 a1 a0 : Byte) : (commandWord op a3 a2 a1 a0).a0 = a0 := by
  ext i hi
  simp only [CommandWord.a0, commandWord, BitVec.getElem_extractLsb', BitVec.getLsbD_append]
  rw [if_pos (by omega), show 0 + i = i by omega, BitVec.getLsbD_eq_getElem hi]

/-- A command word is its five fields (R80). -/
theorem commandWord_fields (w : CommandWord) : commandWord w.op w.a3 w.a2 w.a1 w.a0 = w := by
  apply BitVec.eq_of_getLsbD_eq
  intro i hi
  simp only [commandWord, CommandWord.op, CommandWord.a3, CommandWord.a2, CommandWord.a1, CommandWord.a0,
    BitVec.getLsbD_append, BitVec.getLsbD_extractLsb']
  repeat' split
  all_goals
    rw [decide_eq_true (by omega), Bool.true_and]
    congr 1
    omega

/-- The row of an opcode, where it has one. -/
theorem decode_eq (w : CommandWord) :
    decode w = (opcodeTable.find? (fun row => row.op == w.op)).map (fun row => row.build w.a0 w.a1 w.a2 w.a3) := rfl

/-- No two rows of the table have one opcode, so a word has at most one meaning (R81). -/
theorem opcodeTable_distinct : opcodeTable.Pairwise (fun r q => r.op ≠ q.op) := by
  simp [opcodeTable]

/-- A word is decoded exactly when some row has its opcode; the operation is that row's. -/
theorem decode_eq_some {w : CommandWord} {i : Instr} (h : decode w = some i) :
    ∃ row ∈ opcodeTable, row.op = w.op ∧ i = row.build w.a0 w.a1 w.a2 w.a3 := by
  rw [decode_eq] at h
  obtain ⟨row, hf, rfl⟩ := Option.map_eq_some_iff.1 h
  exact ⟨row, List.mem_of_find?_eq_some hf, by simpa using List.find?_some hf, rfl⟩

/-- The words without a meaning are those whose opcode no row has (R85). -/
theorem decode_eq_none {w : CommandWord} : decode w = none ↔ ∀ row ∈ opcodeTable, row.op ≠ w.op := by
  simp [decode_eq, List.find?_eq_none]

/-- Every instruction is well formed: its operands are bytes (R82, R205). -/
theorem Instr.wellFormed_true (i : Instr) : i.wellFormed = true := by
  have fits (b : Byte) : b.toNat < 256 := b.isLt
  cases i <;>
    simp [Instr.wellFormed, Instr.sourceLine, SourceLine.wellFormed, SourceLine.knownMnemonic,
      SourceLine.operandCountRight, SourceLine.operandsFit, operandCounts, fits]

end Sys2Proof
end

