-- ==== Sys2Proof/Laws/Memory.lean ====
section
/-! SUPPORT. The peripheral's registers: reading after writing, and the canonical form kept by every operation on
them. -/

namespace Sys2Proof.Machine

@[simp] theorem Memory.read_nil (a : Nat) : Memory.read [] a = unlistedByte := rfl

theorem Memory.read_cons (c : Host.Cell) (m : Memory) (a : Nat) :
    Memory.read (c :: m) a = if c.1 = a then c.2 else Memory.read m a := rfl

/-- An address below every listed one is not listed. -/
theorem Memory.read_below {m : Memory} {a : Nat} (h : ∀ c ∈ m, a < c.1) : Memory.read m a = unlistedByte := by
  induction m with
  | nil => rfl
  | cons c m ih =>
    have hc := h c (by simp)
    rw [Memory.read_cons, if_neg (by omega)]
    exact ih fun d hd => h d (by simp [hd])

/-- Reading the address just written gives the value written, in a memory whose addresses rise. -/
theorem Memory.read_write_same {m : Memory} (h : m.Pairwise (fun c d => c.1 < d.1)) (a : Nat) (v : Byte) :
    Memory.read (Memory.write m a v) a = v := by
  induction m with
  | nil =>
    unfold Memory.write
    split <;> simp_all [Memory.read_cons]
  | cons c m ih =>
    rw [List.pairwise_cons] at h
    unfold Memory.write
    split
    · have below : Memory.read (c :: m) a = unlistedByte :=
        Memory.read_below fun d hd => by
          rcases List.mem_cons.1 hd with rfl | hd
          · assumption
          · have := h.1 d hd
            omega
      split <;> simp_all [Memory.read_cons]
    · split
      · rename_i _ heq
        have below : Memory.read m a = unlistedByte :=
          Memory.read_below fun d hd => by have := h.1 d hd; omega
        split <;> simp_all [Memory.read_cons]
      · rw [Memory.read_cons, if_neg (by omega)]
        exact ih h.2

/-- Writing an address leaves every other one alone. -/
theorem Memory.read_write_other (m : Memory) {a b : Nat} (hne : b ≠ a) (v : Byte) :
    Memory.read (Memory.write m a v) b = Memory.read m b := by
  induction m with
  | nil =>
    unfold Memory.write
    split <;> simp [Memory.read_cons, hne.symm]
  | cons c m ih =>
    unfold Memory.write
    split
    · split <;> simp [Memory.read_cons, hne.symm]
    · split
      · rename_i _ heq
        subst heq
        split <;> simp [Memory.read_cons, hne.symm]
      · simp [Memory.read_cons, ih]

/-- An address that a write leaves listed was listed before or is the one written. -/
theorem Memory.mem_write {m : Memory} {a : Nat} {v : Byte} {c : Host.Cell} (h : c ∈ Memory.write m a v) :
    c ∈ m ∨ c = (a, v) ∧ v ≠ unlistedByte := by
  induction m with
  | nil =>
    unfold Memory.write at h
    split at h <;> simp_all
  | cons d m ih =>
    unfold Memory.write at h
    split at h
    · split at h
      · exact .inl h
      · rcases List.mem_cons.1 h with rfl | h
        · exact .inr ⟨rfl, ‹_›⟩
        · exact .inl h
    · split at h
      · split at h
        · exact .inl (List.mem_cons_of_mem _ h)
        · rcases List.mem_cons.1 h with rfl | h
          · exact .inr ⟨rfl, ‹_›⟩
          · exact .inl (List.mem_cons_of_mem _ h)
      · rcases List.mem_cons.1 h with rfl | h
        · simp
        · rcases ih h with h | h <;> simp [h]

/-- A write of a named register keeps the canonical form. -/
theorem Memory.write_wf {m : Memory} (h : Memory.wf m) {a : Nat} (ha : a < 8) (v : Byte) :
    Memory.wf (Memory.write m a v) := by
  refine ⟨?_, fun c hc => ?_⟩
  · obtain ⟨hp, -⟩ := h
    induction m with
    | nil =>
      unfold Memory.write
      split <;> simp
    | cons c m ih =>
      rw [List.pairwise_cons] at hp
      unfold Memory.write
      split
      · split
        · exact List.pairwise_cons.2 hp
        · refine List.pairwise_cons.2 ⟨fun d hd => ?_, List.pairwise_cons.2 hp⟩
          rcases List.mem_cons.1 hd with rfl | hd
          · assumption
          · have := hp.1 d hd
            simp only
            omega
      · split
        · rename_i _ heq
          split
          · exact hp.2
          · exact List.pairwise_cons.2 ⟨fun d hd => by have := hp.1 d hd; simp only; omega, hp.2⟩
        · refine List.pairwise_cons.2 ⟨fun d hd => ?_, ih hp.2⟩
          rcases Memory.mem_write hd with hd | ⟨rfl, -⟩
          · exact hp.1 d hd
          · simp only
            omega
  · rcases Memory.mem_write hc with hc | ⟨rfl, hv⟩
    · exact h.2 c hc
    · exact ⟨ha, hv⟩

theorem isNamed_iff (reg : Byte) : isNamed reg = true ↔ reg.toNat < 8 := by simp [isNamed]

/-- Giving a register of the peripheral a value keeps the canonical form. -/
theorem storeReg_wf {m : Memory} (h : Memory.wf m) (reg v : Byte) : Memory.wf (storeReg m reg v) := by
  unfold storeReg
  split
  · exact Memory.write_wf h ((isNamed_iff reg).1 ‹_›) v
  · exact h

/-- Giving a register a value leaves the registers at every other address alone. -/
theorem read_storeReg_other (m : Memory) {reg : Byte} {a : Nat} (hne : a ≠ reg.toNat) (v : Byte) :
    Memory.read (storeReg m reg v) a = Memory.read m a := by
  unfold storeReg
  split
  · exact Memory.read_write_other m hne v
  · rfl

/-- A named register holds the value it was given. -/
theorem read_storeReg_same {m : Memory} (h : Memory.wf m) {reg : Byte} (hn : isNamed reg = true) (v : Byte) :
    Memory.read (storeReg m reg v) reg.toNat = v := by
  simpa [storeReg, hn] using Memory.read_write_same h.1 reg.toNat v

/-- The same for an address written as a number. -/
theorem read_storeReg_at {m : Memory} (h : Memory.wf m) {reg : Byte} {a : Nat} (ha : reg.toNat = a) (hn : a < 8)
    (v : Byte) : Memory.read (storeReg m reg v) a = v := by
  subst ha
  exact read_storeReg_same h ((isNamed_iff reg).2 hn) v

/-- The empty memory is canonical. -/
theorem nil_wf : Memory.wf [] := ⟨List.Pairwise.nil, nofun⟩

end Sys2Proof.Machine
end

