-- ==== Sys2Proof/Laws/State.lean ====
section
/-! SUPPORT. One lemma per field per update: what each operation on State leaves in each field, by rfl. -/

namespace Sys2Proof.Machine

/-! ### record e s -/

@[simp] theorem record_busy (e : Event) (s : State) : (record e s).busy = s.busy := rfl
@[simp] theorem record_seqOp (e : Event) (s : State) : (record e s).seqOp = s.seqOp := rfl
@[simp] theorem record_seqStep (e : Event) (s : State) : (record e s).seqStep = s.seqStep := rfl
@[simp] theorem record_a0 (e : Event) (s : State) : (record e s).a0 = s.a0 := rfl
@[simp] theorem record_a1 (e : Event) (s : State) : (record e s).a1 = s.a1 := rfl
@[simp] theorem record_a2 (e : Event) (s : State) : (record e s).a2 = s.a2 := rfl
@[simp] theorem record_a3 (e : Event) (s : State) : (record e s).a3 = s.a3 := rfl
@[simp] theorem record_t (e : Event) (s : State) : (record e s).t = s.t := rfl
@[simp] theorem record_res (e : Event) (s : State) : (record e s).res = s.res := rfl
@[simp] theorem record_status (e : Event) (s : State) : (record e s).status = s.status := rfl
@[simp] theorem record_params (e : Event) (s : State) : (record e s).params = s.params := rfl
@[simp] theorem record_periph (e : Event) (s : State) : (record e s).periph = s.periph := rfl
@[simp] theorem record_offers (e : Event) (s : State) : (record e s).offers = s.offers := rfl
@[simp] theorem record_inputs (e : Event) (s : State) : (record e s).inputs = s.inputs := rfl
@[simp] theorem record_history (e : Event) (s : State) : (record e s).history = s.history ++ [e] := rfl

/-! ### setBusy s -/

@[simp] theorem setBusy_busy (s : State) : (setBusy s).busy = true := rfl
@[simp] theorem setBusy_seqOp (s : State) : (setBusy s).seqOp = s.seqOp := rfl
@[simp] theorem setBusy_seqStep (s : State) : (setBusy s).seqStep = 0#3 := rfl
@[simp] theorem setBusy_a0 (s : State) : (setBusy s).a0 = s.a0 := rfl
@[simp] theorem setBusy_a1 (s : State) : (setBusy s).a1 = s.a1 := rfl
@[simp] theorem setBusy_a2 (s : State) : (setBusy s).a2 = s.a2 := rfl
@[simp] theorem setBusy_a3 (s : State) : (setBusy s).a3 = s.a3 := rfl
@[simp] theorem setBusy_t (s : State) : (setBusy s).t = s.t := rfl
@[simp] theorem setBusy_res (s : State) : (setBusy s).res = s.res := rfl
@[simp] theorem setBusy_status (s : State) : (setBusy s).status = s.status := rfl
@[simp] theorem setBusy_params (s : State) : (setBusy s).params = s.params := rfl
@[simp] theorem setBusy_periph (s : State) : (setBusy s).periph = s.periph := rfl
@[simp] theorem setBusy_offers (s : State) : (setBusy s).offers = s.offers := rfl
@[simp] theorem setBusy_inputs (s : State) : (setBusy s).inputs = s.inputs := rfl
@[simp] theorem setBusy_history (s : State) : (setBusy s).history = s.history := rfl

/-! ### setStatus code s -/

@[simp] theorem setStatus_busy (code : Status) (s : State) : (setStatus code s).busy = false := rfl
@[simp] theorem setStatus_seqOp (code : Status) (s : State) : (setStatus code s).seqOp = s.seqOp := rfl
@[simp] theorem setStatus_seqStep (code : Status) (s : State) : (setStatus code s).seqStep = s.seqStep := rfl
@[simp] theorem setStatus_a0 (code : Status) (s : State) : (setStatus code s).a0 = s.a0 := rfl
@[simp] theorem setStatus_a1 (code : Status) (s : State) : (setStatus code s).a1 = s.a1 := rfl
@[simp] theorem setStatus_a2 (code : Status) (s : State) : (setStatus code s).a2 = s.a2 := rfl
@[simp] theorem setStatus_a3 (code : Status) (s : State) : (setStatus code s).a3 = s.a3 := rfl
@[simp] theorem setStatus_t (code : Status) (s : State) : (setStatus code s).t = s.t := rfl
@[simp] theorem setStatus_res (code : Status) (s : State) : (setStatus code s).res = s.res := rfl
@[simp] theorem setStatus_status (code : Status) (s : State) : (setStatus code s).status = code := rfl
@[simp] theorem setStatus_params (code : Status) (s : State) : (setStatus code s).params = s.params := rfl
@[simp] theorem setStatus_periph (code : Status) (s : State) : (setStatus code s).periph = s.periph := rfl
@[simp] theorem setStatus_offers (code : Status) (s : State) : (setStatus code s).offers = s.offers := rfl
@[simp] theorem setStatus_inputs (code : Status) (s : State) : (setStatus code s).inputs = s.inputs := rfl
@[simp] theorem setStatus_history (code : Status) (s : State) : (setStatus code s).history = s.history := rfl

/-! ### accept w s -/

@[simp] theorem accept_busy (w : CommandWord) (s : State) : (accept w s).busy = true := rfl
@[simp] theorem accept_seqOp (w : CommandWord) (s : State) : (accept w s).seqOp = w.op := rfl
@[simp] theorem accept_seqStep (w : CommandWord) (s : State) : (accept w s).seqStep = 0#3 := rfl
@[simp] theorem accept_a0 (w : CommandWord) (s : State) : (accept w s).a0 = w.a0 := rfl
@[simp] theorem accept_a1 (w : CommandWord) (s : State) : (accept w s).a1 = w.a1 := rfl
@[simp] theorem accept_a2 (w : CommandWord) (s : State) : (accept w s).a2 = w.a2 := rfl
@[simp] theorem accept_a3 (w : CommandWord) (s : State) : (accept w s).a3 = w.a3 := rfl
@[simp] theorem accept_t (w : CommandWord) (s : State) : (accept w s).t = s.t := rfl
@[simp] theorem accept_res (w : CommandWord) (s : State) : (accept w s).res = s.res := rfl
@[simp] theorem accept_status (w : CommandWord) (s : State) : (accept w s).status = s.status := rfl
@[simp] theorem accept_params (w : CommandWord) (s : State) : (accept w s).params = s.params := rfl
@[simp] theorem accept_periph (w : CommandWord) (s : State) : (accept w s).periph = s.periph := rfl
@[simp] theorem accept_offers (w : CommandWord) (s : State) : (accept w s).offers = s.offers := rfl
@[simp] theorem accept_inputs (w : CommandWord) (s : State) : (accept w s).inputs = s.inputs := rfl
@[simp] theorem accept_history (w : CommandWord) (s : State) : (accept w s).history = s.history ++ [.cmd w] := rfl

/-! ### complete code data s -/

@[simp] theorem complete_busy (code : Status) (data : Option Byte) (s : State) : (complete code data s).busy = false := rfl
@[simp] theorem complete_seqOp (code : Status) (data : Option Byte) (s : State) : (complete code data s).seqOp = s.seqOp := rfl
@[simp] theorem complete_seqStep (code : Status) (data : Option Byte) (s : State) : (complete code data s).seqStep = s.seqStep := rfl
@[simp] theorem complete_a0 (code : Status) (data : Option Byte) (s : State) : (complete code data s).a0 = s.a0 := rfl
@[simp] theorem complete_a1 (code : Status) (data : Option Byte) (s : State) : (complete code data s).a1 = s.a1 := rfl
@[simp] theorem complete_a2 (code : Status) (data : Option Byte) (s : State) : (complete code data s).a2 = s.a2 := rfl
@[simp] theorem complete_a3 (code : Status) (data : Option Byte) (s : State) : (complete code data s).a3 = s.a3 := rfl
@[simp] theorem complete_t (code : Status) (data : Option Byte) (s : State) : (complete code data s).t = s.t := rfl
@[simp] theorem complete_res (code : Status) (data : Option Byte) (s : State) : (complete code data s).res = data.getD s.res := rfl
@[simp] theorem complete_status (code : Status) (data : Option Byte) (s : State) : (complete code data s).status = code := rfl
@[simp] theorem complete_params (code : Status) (data : Option Byte) (s : State) : (complete code data s).params = s.params := rfl
@[simp] theorem complete_periph (code : Status) (data : Option Byte) (s : State) : (complete code data s).periph = s.periph := rfl
@[simp] theorem complete_offers (code : Status) (data : Option Byte) (s : State) : (complete code data s).offers = s.offers := rfl
@[simp] theorem complete_inputs (code : Status) (data : Option Byte) (s : State) : (complete code data s).inputs = s.inputs := rfl
@[simp] theorem complete_history (code : Status) (data : Option Byte) (s : State) : (complete code data s).history = s.history ++ [.rsp code data] := rfl

/-! ### raiseError code s -/

@[simp] theorem raiseError_busy (code : Status) (s : State) : (raiseError code s).busy = false := rfl
@[simp] theorem raiseError_seqOp (code : Status) (s : State) : (raiseError code s).seqOp = s.seqOp := rfl
@[simp] theorem raiseError_seqStep (code : Status) (s : State) : (raiseError code s).seqStep = s.seqStep := rfl
@[simp] theorem raiseError_a0 (code : Status) (s : State) : (raiseError code s).a0 = s.a0 := rfl
@[simp] theorem raiseError_a1 (code : Status) (s : State) : (raiseError code s).a1 = s.a1 := rfl
@[simp] theorem raiseError_a2 (code : Status) (s : State) : (raiseError code s).a2 = s.a2 := rfl
@[simp] theorem raiseError_a3 (code : Status) (s : State) : (raiseError code s).a3 = s.a3 := rfl
@[simp] theorem raiseError_t (code : Status) (s : State) : (raiseError code s).t = s.t := rfl
@[simp] theorem raiseError_res (code : Status) (s : State) : (raiseError code s).res = s.res := rfl
@[simp] theorem raiseError_status (code : Status) (s : State) : (raiseError code s).status = code := rfl
@[simp] theorem raiseError_params (code : Status) (s : State) : (raiseError code s).params = s.params := rfl
@[simp] theorem raiseError_periph (code : Status) (s : State) : (raiseError code s).periph = s.periph := rfl
@[simp] theorem raiseError_offers (code : Status) (s : State) : (raiseError code s).offers = s.offers := rfl
@[simp] theorem raiseError_inputs (code : Status) (s : State) : (raiseError code s).inputs = s.inputs := rfl
@[simp] theorem raiseError_history (code : Status) (s : State) : (raiseError code s).history = s.history ++ [.rsp code none] := rfl

/-! ### raiseTransportError s -/

@[simp] theorem raiseTransportError_busy (s : State) : (raiseTransportError s).busy = false := rfl
@[simp] theorem raiseTransportError_seqOp (s : State) : (raiseTransportError s).seqOp = s.seqOp := rfl
@[simp] theorem raiseTransportError_seqStep (s : State) : (raiseTransportError s).seqStep = s.seqStep := rfl
@[simp] theorem raiseTransportError_a0 (s : State) : (raiseTransportError s).a0 = s.a0 := rfl
@[simp] theorem raiseTransportError_a1 (s : State) : (raiseTransportError s).a1 = s.a1 := rfl
@[simp] theorem raiseTransportError_a2 (s : State) : (raiseTransportError s).a2 = s.a2 := rfl
@[simp] theorem raiseTransportError_a3 (s : State) : (raiseTransportError s).a3 = s.a3 := rfl
@[simp] theorem raiseTransportError_t (s : State) : (raiseTransportError s).t = s.t := rfl
@[simp] theorem raiseTransportError_res (s : State) : (raiseTransportError s).res = s.res := rfl
@[simp] theorem raiseTransportError_status (s : State) : (raiseTransportError s).status = statusTransportError := rfl
@[simp] theorem raiseTransportError_params (s : State) : (raiseTransportError s).params = s.params := rfl
@[simp] theorem raiseTransportError_periph (s : State) : (raiseTransportError s).periph = s.periph := rfl
@[simp] theorem raiseTransportError_offers (s : State) : (raiseTransportError s).offers = s.offers := rfl
@[simp] theorem raiseTransportError_inputs (s : State) : (raiseTransportError s).inputs = s.inputs := rfl
@[simp] theorem raiseTransportError_history (s : State) : (raiseTransportError s).history = s.history ++ [.rsp statusTransportError none] := rfl

/-! ### raiseIllegalCommand s -/

@[simp] theorem raiseIllegalCommand_busy (s : State) : (raiseIllegalCommand s).busy = false := rfl
@[simp] theorem raiseIllegalCommand_seqOp (s : State) : (raiseIllegalCommand s).seqOp = s.seqOp := rfl
@[simp] theorem raiseIllegalCommand_seqStep (s : State) : (raiseIllegalCommand s).seqStep = s.seqStep := rfl
@[simp] theorem raiseIllegalCommand_a0 (s : State) : (raiseIllegalCommand s).a0 = s.a0 := rfl
@[simp] theorem raiseIllegalCommand_a1 (s : State) : (raiseIllegalCommand s).a1 = s.a1 := rfl
@[simp] theorem raiseIllegalCommand_a2 (s : State) : (raiseIllegalCommand s).a2 = s.a2 := rfl
@[simp] theorem raiseIllegalCommand_a3 (s : State) : (raiseIllegalCommand s).a3 = s.a3 := rfl
@[simp] theorem raiseIllegalCommand_t (s : State) : (raiseIllegalCommand s).t = s.t := rfl
@[simp] theorem raiseIllegalCommand_res (s : State) : (raiseIllegalCommand s).res = s.res := rfl
@[simp] theorem raiseIllegalCommand_status (s : State) : (raiseIllegalCommand s).status = statusIllegalCommand := rfl
@[simp] theorem raiseIllegalCommand_params (s : State) : (raiseIllegalCommand s).params = s.params := rfl
@[simp] theorem raiseIllegalCommand_periph (s : State) : (raiseIllegalCommand s).periph = s.periph := rfl
@[simp] theorem raiseIllegalCommand_offers (s : State) : (raiseIllegalCommand s).offers = s.offers := rfl
@[simp] theorem raiseIllegalCommand_inputs (s : State) : (raiseIllegalCommand s).inputs = s.inputs := rfl
@[simp] theorem raiseIllegalCommand_history (s : State) : (raiseIllegalCommand s).history = s.history ++ [.rsp statusIllegalCommand none] := rfl

/-! ### advance false s -/

@[simp] theorem advance_middle_busy (s : State) : (advance false s).busy = s.busy := rfl
@[simp] theorem advance_middle_seqOp (s : State) : (advance false s).seqOp = s.seqOp := rfl
@[simp] theorem advance_middle_seqStep (s : State) : (advance false s).seqStep = s.seqStep + 1#3 := rfl
@[simp] theorem advance_middle_a0 (s : State) : (advance false s).a0 = s.a0 := rfl
@[simp] theorem advance_middle_a1 (s : State) : (advance false s).a1 = s.a1 := rfl
@[simp] theorem advance_middle_a2 (s : State) : (advance false s).a2 = s.a2 := rfl
@[simp] theorem advance_middle_a3 (s : State) : (advance false s).a3 = s.a3 := rfl
@[simp] theorem advance_middle_t (s : State) : (advance false s).t = s.t := rfl
@[simp] theorem advance_middle_res (s : State) : (advance false s).res = s.res := rfl
@[simp] theorem advance_middle_status (s : State) : (advance false s).status = s.status := rfl
@[simp] theorem advance_middle_params (s : State) : (advance false s).params = s.params := rfl
@[simp] theorem advance_middle_periph (s : State) : (advance false s).periph = s.periph := rfl
@[simp] theorem advance_middle_offers (s : State) : (advance false s).offers = s.offers := rfl
@[simp] theorem advance_middle_inputs (s : State) : (advance false s).inputs = s.inputs := rfl
@[simp] theorem advance_middle_history (s : State) : (advance false s).history = s.history := rfl

/-! ### advance true s -/

@[simp] theorem advance_last_busy (s : State) : (advance true s).busy = false := rfl
@[simp] theorem advance_last_seqOp (s : State) : (advance true s).seqOp = s.seqOp := rfl
@[simp] theorem advance_last_seqStep (s : State) : (advance true s).seqStep = s.seqStep := rfl
@[simp] theorem advance_last_a0 (s : State) : (advance true s).a0 = s.a0 := rfl
@[simp] theorem advance_last_a1 (s : State) : (advance true s).a1 = s.a1 := rfl
@[simp] theorem advance_last_a2 (s : State) : (advance true s).a2 = s.a2 := rfl
@[simp] theorem advance_last_a3 (s : State) : (advance true s).a3 = s.a3 := rfl
@[simp] theorem advance_last_t (s : State) : (advance true s).t = s.t := rfl
@[simp] theorem advance_last_res (s : State) : (advance true s).res = s.res := rfl
@[simp] theorem advance_last_status (s : State) : (advance true s).status = statusOk := rfl
@[simp] theorem advance_last_params (s : State) : (advance true s).params = s.params := rfl
@[simp] theorem advance_last_periph (s : State) : (advance true s).periph = s.periph := rfl
@[simp] theorem advance_last_offers (s : State) : (advance true s).offers = s.offers := rfl
@[simp] theorem advance_last_inputs (s : State) : (advance true s).inputs = s.inputs := rfl
@[simp] theorem advance_last_history (s : State) : (advance true s).history = s.history ++ [.rsp statusOk none] := rfl

/-! ### chipChanges reg v s -/

@[simp] theorem chipChanges_busy (reg v : Byte) (s : State) : (chipChanges reg v s).busy = s.busy := rfl
@[simp] theorem chipChanges_seqOp (reg v : Byte) (s : State) : (chipChanges reg v s).seqOp = s.seqOp := rfl
@[simp] theorem chipChanges_seqStep (reg v : Byte) (s : State) : (chipChanges reg v s).seqStep = s.seqStep := rfl
@[simp] theorem chipChanges_a0 (reg v : Byte) (s : State) : (chipChanges reg v s).a0 = s.a0 := rfl
@[simp] theorem chipChanges_a1 (reg v : Byte) (s : State) : (chipChanges reg v s).a1 = s.a1 := rfl
@[simp] theorem chipChanges_a2 (reg v : Byte) (s : State) : (chipChanges reg v s).a2 = s.a2 := rfl
@[simp] theorem chipChanges_a3 (reg v : Byte) (s : State) : (chipChanges reg v s).a3 = s.a3 := rfl
@[simp] theorem chipChanges_t (reg v : Byte) (s : State) : (chipChanges reg v s).t = s.t := rfl
@[simp] theorem chipChanges_res (reg v : Byte) (s : State) : (chipChanges reg v s).res = s.res := rfl
@[simp] theorem chipChanges_status (reg v : Byte) (s : State) : (chipChanges reg v s).status = s.status := rfl
@[simp] theorem chipChanges_params (reg v : Byte) (s : State) : (chipChanges reg v s).params = s.params := rfl
@[simp] theorem chipChanges_periph (reg v : Byte) (s : State) : (chipChanges reg v s).periph = storeReg s.periph reg v := rfl
@[simp] theorem chipChanges_offers (reg v : Byte) (s : State) : (chipChanges reg v s).offers = s.offers := rfl
@[simp] theorem chipChanges_inputs (reg v : Byte) (s : State) : (chipChanges reg v s).inputs = s.inputs := rfl
@[simp] theorem chipChanges_history (reg v : Byte) (s : State) : (chipChanges reg v s).history = s.history := rfl

/-! ### resetBlock d s -/

@[simp] theorem resetBlock_busy (d : ResetDraw) (s : State) : (resetBlock d s).busy = false := rfl
@[simp] theorem resetBlock_seqOp (d : ResetDraw) (s : State) : (resetBlock d s).seqOp = d.op := rfl
@[simp] theorem resetBlock_seqStep (d : ResetDraw) (s : State) : (resetBlock d s).seqStep = d.step := rfl
@[simp] theorem resetBlock_a0 (d : ResetDraw) (s : State) : (resetBlock d s).a0 = d.a0 := rfl
@[simp] theorem resetBlock_a1 (d : ResetDraw) (s : State) : (resetBlock d s).a1 = d.a1 := rfl
@[simp] theorem resetBlock_a2 (d : ResetDraw) (s : State) : (resetBlock d s).a2 = d.a2 := rfl
@[simp] theorem resetBlock_a3 (d : ResetDraw) (s : State) : (resetBlock d s).a3 = d.a3 := rfl
@[simp] theorem resetBlock_t (d : ResetDraw) (s : State) : (resetBlock d s).t = d.t := rfl
@[simp] theorem resetBlock_res (d : ResetDraw) (s : State) : (resetBlock d s).res = d.res := rfl
@[simp] theorem resetBlock_status (d : ResetDraw) (s : State) : (resetBlock d s).status = statusOk := rfl
@[simp] theorem resetBlock_params (d : ResetDraw) (s : State) : (resetBlock d s).params = s.params := rfl
@[simp] theorem resetBlock_periph (d : ResetDraw) (s : State) : (resetBlock d s).periph = abandonInFlight d s := rfl
@[simp] theorem resetBlock_offers (d : ResetDraw) (s : State) : (resetBlock d s).offers = s.offers := rfl
@[simp] theorem resetBlock_inputs (d : ResetDraw) (s : State) : (resetBlock d s).inputs = s.inputs := rfl
@[simp] theorem resetBlock_history (d : ResetDraw) (s : State) : (resetBlock d s).history = s.history := rfl

end Sys2Proof.Machine
end

