-- ==== Sys2Proof/Laws/Ops.lean ====
section
/-! SUPPORT. One lemma per shared operation that says everything it can do; later proofs cite these. -/

namespace Sys2Proof.Machine

/-- The transport gives an answer exactly when one is the next input; taking it changes the inputs only. -/
theorem takeAnswer_eq_some {s s1 : State} {a : Answer} :
    takeAnswer s = some (a, s1) ↔ ∃ rest, s.inputs = .answer a :: rest ∧ s1 = { s with inputs := rest } := by
  unfold takeAnswer
  split
  · rename_i b rest h
    simp [h, eq_comm]
  · rename_i h
    simp only [reduceCtorEq, false_iff]
    rintro ⟨rest, h', -⟩
    exact h a rest h'

theorem takeAnswer_answer {s : State} {a : Answer} {rest : List Input} (h : s.inputs = .answer a :: rest) :
    takeAnswer s = some (a, { s with inputs := rest }) :=
  takeAnswer_eq_some.2 ⟨rest, h, rfl⟩

theorem takeAnswer_nil {s : State} (h : s.inputs = []) : takeAnswer s = none := by
  simp [takeAnswer, h]

/-- What advance can do (R32): complete with STATUS 0, or add 1 to SEQ.step. -/
theorem advance_cases (last : Bool) (s : State) :
    (last = true ∧ advance last s = complete statusOk none s) ∨
      (last = false ∧ advance last s = { s with seqStep := s.seqStep + 1#3 }) := by
  cases last
  · exact .inr ⟨rfl, rfl⟩
  · exact .inl ⟨rfl, rfl⟩

/-- What a read micro-step can do once its byte is in T: complete with data, abort, or advance. -/
theorem afterRead_cases (use : ReadUse) (last err : Bool) (s : State) :
    (∃ d, afterRead use last err s = complete statusOk (some d) s ∧ use ≠ .merge) ∨
      (afterRead use last err s = raiseTransportError s ∧ use = .merge ∧ err = true ∧
        s.params.rmwReadErrAborts = true) ∨
      (afterRead use last err s = advance last s ∧ use = .merge ∧
        (err && s.params.rmwReadErrAborts) = false) := by
  cases use with
  | merge =>
    by_cases h : (err && s.params.rmwReadErrAborts) = true
    · exact .inr (.inl ⟨by simp only [afterRead, if_pos h], rfl, by simpa using h⟩)
    · exact .inr (.inr ⟨by simp only [afterRead, if_neg h], rfl, by simpa using h⟩)
  | decoded mask => exact .inl ⟨_, rfl, nofun⟩
  | raw => exact .inl ⟨_, rfl, nofun⟩

/-- A read micro-step with its answer (R31): the byte goes to T and to the history, then it is used. -/
theorem answerRead_eq (reg : Byte) (use : ReadUse) (last : Bool) (a : Answer) (s : State) :
    answerRead reg use last a s =
      afterRead use last a.err
        (record (.rd devAddr reg a.err (memRead reg a s.periph).2) { s with t := (memRead reg a s.periph).2 }) :=
  rfl

/-- What a write micro-step can do: abort on a failure, else advance. -/
theorem answerWrite_eq (reg v : Byte) (last : Bool) (a : Answer) (s : State) :
    answerWrite reg v last a s =
      (if a.err then raiseTransportError else advance last)
        (record (.wr devAddr reg v a.err)
          { s with periph := storeReg s.periph reg (if a.err then a.draw else v) }) := by
  unfold answerWrite memWrite
  cases a.err <;> rfl

/-- What a micro-step can do: wait, complete an internal step, or take one answer. -/
theorem perform_cases (u : MicroStep) (last : Bool) (s : State) :
    (perform u last s = s ∧ u.request.isSome = true ∧ takeAnswer s = none) ∨
      (∃ d, u = .internal d ∧ perform u last s = complete statusOk (some d) s) ∨
      (∃ reg use a s1, u = .read reg use ∧ takeAnswer s = some (a, s1) ∧
        perform u last s = answerRead reg use last a s1) ∨
      (∃ reg v a s1, u = .write reg v ∧ takeAnswer s = some (a, s1) ∧
        perform u last s = answerWrite reg v last a s1) := by
  cases u with
  | read reg use =>
    cases h : takeAnswer s with
    | none => exact .inl ⟨by simp [perform, h], rfl, rfl⟩
    | some r => exact .inr (.inr (.inl ⟨reg, use, r.1, r.2, rfl, rfl, by simp [perform, h]⟩))
  | write reg v =>
    cases h : takeAnswer s with
    | none => exact .inl ⟨by simp [perform, h], rfl, rfl⟩
    | some r => exact .inr (.inr (.inr ⟨reg, v, r.1, r.2, rfl, rfl, by simp [perform, h]⟩))
  | internal d => exact .inr (.inl ⟨d, rfl, rfl⟩)

/-- A read micro-step whose answer is the next input. -/
theorem perform_read {s : State} {a : Answer} {rest : List Input} (h : s.inputs = .answer a :: rest) (reg : Byte)
    (use : ReadUse) (last : Bool) :
    perform (.read reg use) last s = answerRead reg use last a { s with inputs := rest } := by
  simp [perform, takeAnswer_answer h]

/-- A write micro-step whose answer is the next input. -/
theorem perform_write {s : State} {a : Answer} {rest : List Input} (h : s.inputs = .answer a :: rest) (reg v : Byte)
    (last : Bool) : perform (.write reg v) last s = answerWrite reg v last a { s with inputs := rest } := by
  simp [perform, takeAnswer_answer h]

/-- What no micro-step touches: the opcode, the operand latches, the parameters and the offers. -/
theorem perform_frame (u : MicroStep) (last : Bool) (s : State) :
    (perform u last s).seqOp = s.seqOp ∧ (perform u last s).a0 = s.a0 ∧ (perform u last s).a1 = s.a1 ∧
      (perform u last s).a2 = s.a2 ∧ (perform u last s).a3 = s.a3 ∧ (perform u last s).params = s.params ∧
      (perform u last s).offers = s.offers := by
  obtain ⟨busy, op, k, a0, a1, a2, a3, t, res, st, ⟨mc, keep, aborts⟩, m, offers, inputs, h⟩ := s
  rcases inputs with _ | ⟨⟨err, d⟩ | _ | _, rest⟩ <;> cases u <;> try exact ⟨rfl, rfl, rfl, rfl, rfl, rfl, rfl⟩
  · rename_i use
    cases use <;> cases last <;> cases err <;> cases aborts <;> exact ⟨rfl, rfl, rfl, rfl, rfl, rfl, rfl⟩
  · cases last <;> cases err <;> exact ⟨rfl, rfl, rfl, rfl, rfl, rfl, rfl⟩

/-- No micro-step changes the peripheral at an address it does not write (R55: "no other register is affected"). -/
theorem perform_read_periph (u : MicroStep) (last : Bool) (s : State) {b : Nat}
    (h : ∀ reg v, u = .write reg v → b ≠ reg.toNat) :
    Memory.read (perform u last s).periph b = Memory.read s.periph b := by
  rcases perform_cases u last s with ⟨h', -, -⟩ | ⟨d, -, h'⟩ | ⟨reg, use, a, s1, -, ht, h'⟩ | ⟨reg, v, a, s1, hu, ht, h'⟩ <;>
    rw [h']
  · rfl
  · obtain ⟨rest, -, rfl⟩ := takeAnswer_eq_some.1 ht
    simp only [answerRead]
    rcases afterRead_cases use last (memRead reg a s.periph).1
        (record (.rd devAddr reg (memRead reg a s.periph).1 (memRead reg a s.periph).2)
          { s with inputs := rest, t := (memRead reg a s.periph).2 }) with ⟨d, h, -⟩ | ⟨h, -⟩ | ⟨h, -⟩ <;> rw [h]
    · rfl
    · rfl
    · cases last <;> rfl
  · obtain ⟨rest, -, rfl⟩ := takeAnswer_eq_some.1 ht
    obtain ⟨err, d⟩ := a
    have hb := read_storeReg_other s.periph (h reg v hu) (if err then d else v)
    rw [answerWrite_eq]
    cases err <;> cases last <;> exact hb

/-- What a micro-step does to BUSY and SEQ.step: it completes the command, waits, or moves on to the next index. -/
theorem perform_sequencer (u : MicroStep) (last : Bool) (s : State) :
    (perform u last s).busy = false ∨ (perform u last s = s ∧ takeAnswer s = none) ∨
      (last = false ∧ (perform u last s).seqStep = s.seqStep + 1#3 ∧ (perform u last s).busy = s.busy) := by
  obtain ⟨busy, op, k, a0, a1, a2, a3, t, res, st, ⟨mc, keep, aborts⟩, m, offers, inputs, h⟩ := s
  rcases inputs with _ | ⟨⟨err, d⟩ | _ | _, rest⟩ <;> cases u <;>
    try first | exact .inl rfl | exact .inr (.inl ⟨rfl, rfl⟩)
  · rename_i use
    cases use <;> cases last <;> cases err <;> cases aborts <;>
      first | exact .inl rfl | exact .inr (.inr ⟨rfl, rfl, rfl⟩)
  · cases last <;> cases err <;> first | exact .inl rfl | exact .inr (.inr ⟨rfl, rfl, rfl⟩)

/-- A micro-step works alike whatever the host offers meanwhile. -/
theorem perform_offers (u : MicroStep) (last : Bool) (s : State) (ws : List CommandWord) :
    perform u last { s with offers := ws } = { perform u last s with offers := ws } := by
  obtain ⟨busy, op, k, a0, a1, a2, a3, t, res, st, ⟨mc, keep, aborts⟩, m, offers, inputs, h⟩ := s
  rcases inputs with _ | ⟨⟨err, d⟩ | _ | _, rest⟩ <;> cases u <;> try rfl
  · rename_i use
    cases use <;> cases last <;> cases err <;> cases aborts <;> rfl
  · cases last <;> cases err <;> rfl

/-- The micro-step a state is at runs as the next step of its micro-program. -/
theorem runMicro_at {prog : List MicroStep} {s : State} {u : MicroStep} (h : prog[s.seqStep.toNat]? = some u) :
    runMicro prog s = .next (perform u (decide (s.seqStep.toNat + 1 = prog.length)) s) := by
  simp [runMicro, h]

/-- When a micro-program answers a next state, that state is one micro-step's. -/
theorem runMicro_next {prog : List MicroStep} {s s' : State} (h : runMicro prog s = .next s') :
    ∃ u, prog[s.seqStep.toNat]? = some u ∧
      s' = perform u (decide (s.seqStep.toNat + 1 = prog.length)) s := by
  unfold runMicro at h
  split at h
  · cases h
  · rename_i u hu
    cases h
    exact ⟨u, hu, rfl⟩

/-- A micro-program stops only past its end, and only with the fault of that name. -/
theorem runMicro_fault_iff {prog : List MicroStep} {s : State} :
    (∃ f, runMicro prog s = .fault f) ↔ prog.length ≤ s.seqStep.toNat := by
  unfold runMicro
  split
  · rename_i h
    exact iff_of_true ⟨_, rfl⟩ (List.getElem?_eq_none_iff.1 h)
  · rename_i u h
    exact iff_of_false nofun (Nat.not_le.2 (List.getElem?_eq_some_iff.1 h).1)

theorem runMicro_ne_refused (prog : List MicroStep) (s : State) (r : Refusal) : runMicro prog s ≠ .refused r := by
  unfold runMicro
  split <;> nofun

end Sys2Proof.Machine
end

