-- ==== Sys2Proof/Laws/Exec.lean ====
section
/-! SUPPORT. What `exec` and `step` do, said once: each operation runs its micro-program, and a step is one of six
things. -/

namespace Sys2Proof.Machine

/-- Each operation performs the micro-step of index SEQ.step of its micro-program (R31). -/
theorem exec_eq_runMicro (i : Instr) (s : State) : exec i s = runMicro (microProgram i s.params s.t) s := by
  cases i <;> rfl

@[simp] theorem microProgram_length (i : Instr) (p : Params) (t : Byte) :
    (microProgram i p t).length = stepCount i := by
  cases i <;> rfl

/-- The transactions of a micro-program do not depend on the parameters or on T. -/
theorem microProgram_requests (i : Instr) (p q : Params) (t u : Byte) :
    (microProgram i p t).map (fun m => m.request.isSome) = (microProgram i q u).map (fun m => m.request.isSome) := by
  cases i <;> rfl

theorem stepCount_le_five (i : Instr) : stepCount i ≤ 5 := by cases i <;> simp [stepCount]

theorem stepCount_pos (i : Instr) : 0 < stepCount i := by cases i <;> simp [stepCount]

/-- No operation is refused. -/
theorem exec_ne_refused (i : Instr) (s : State) (r : Refusal) : exec i s ≠ .refused r := by
  rw [exec_eq_runMicro]
  exact runMicro_ne_refused _ _ r

/-- An operation stops exactly where SEQ.step is past its micro-program. -/
theorem exec_fault_iff (i : Instr) (s : State) : (∃ f, exec i s = .fault f) ↔ stepCount i ≤ s.seqStep.toNat := by
  rw [exec_eq_runMicro, runMicro_fault_iff, microProgram_length]

/-- When an operation answers a next state, that state is one micro-step's. -/
theorem exec_next {i : Instr} {s s' : State} (h : exec i s = .next s') :
    ∃ u, (microProgram i s.params s.t)[s.seqStep.toNat]? = some u ∧
      s' = perform u (decide (s.seqStep.toNat + 1 = stepCount i)) s := by
  rw [exec_eq_runMicro] at h
  obtain ⟨u, hu, rfl⟩ := runMicro_next h
  exact ⟨u, hu, by simp⟩

/-- What a step of the block that answers a next state did. -/
theorem blockStep_cases {s s' : State} (h : blockStep s = .next s') :
    (s.busy = true ∧ ∃ i, decode (currentWord s) = some i ∧ exec i s = .next s') ∨
      (s.busy = true ∧ decode (currentWord s) = none ∧ s' = raiseIllegalCommand s) ∨
      (s.busy = false ∧ s' = idleStep s) := by
  unfold blockStep at h
  split at h
  · split at h
    · exact .inl ⟨‹_›, _, ‹_›, h⟩
    · cases h
      exact .inr (.inl ⟨‹_›, ‹_›, rfl⟩)
  · cases h
    exact .inr (.inr ⟨Bool.eq_false_iff.2 ‹_›, rfl⟩)

/-- Where an outcome with other inputs left answers a next state, so did the outcome. -/
theorem leaveInputs_next {rest : List Input} {o : Host.Outcome State Fault Refusal} {s' : State}
    (h : leaveInputs rest o = .next s') : ∃ s1, o = .next s1 ∧ s' = { s1 with inputs := rest } := by
  cases o <;> cases h
  exact ⟨_, rfl, rfl⟩

/-- What a step that answers a next state did: the chip changed a register, the block was reset, or the block moved,
either while the outside was silent or with its inputs as they stood. -/
theorem step_cases {s s' : State} (h : step s = .next s') :
    (∃ reg v rest, s.inputs = .chip reg v :: rest ∧ s' = chipChanges reg v { s with inputs := rest }) ∨
      (∃ d rest, s.inputs = .reset d :: rest ∧ s' = resetBlock d { s with inputs := rest }) ∨
      (∃ rest s1, s.inputs = .quiet :: rest ∧ blockStep { s with inputs := [] } = .next s1 ∧
        s' = { s1 with inputs := rest }) ∨
      (BlockMoves s ∧ blockStep s = .next s') := by
  obtain ⟨_, _, _, _, _, _, _, _, _, _, _, _, _, inputs, _⟩ := s
  rcases inputs with _ | ⟨_ | _ | _ | _, rest⟩
  · exact .inr (.inr (.inr ⟨rfl, h⟩))
  · exact .inr (.inr (.inr ⟨rfl, h⟩))
  · cases h
    exact .inl ⟨_, _, _, rfl, rfl⟩
  · cases h
    exact .inr (.inl ⟨_, _, rfl, rfl⟩)
  · obtain ⟨s1, h1, rfl⟩ := leaveInputs_next h
    exact .inr (.inr (.inl ⟨rest, s1, rfl, h1, rfl⟩))

/-- On the block's turn a step is the block's. -/
theorem step_blockMoves {s : State} (h : BlockMoves s) : step s = blockStep s := by
  obtain ⟨_, _, _, _, _, _, _, _, _, _, _, _, _, inputs, _⟩ := s
  rcases inputs with _ | ⟨_ | _ | _ | _, rest⟩ <;> first | rfl | cases h

/-- In a silence the block moves as with no inputs, and the later inputs stay. -/
theorem step_quiet {s : State} {rest : List Input} (h : s.inputs = .quiet :: rest) :
    step s = leaveInputs rest (blockStep { s with inputs := [] }) := by
  simp [step, turn, quietStep, h]

/-- The chip, or another master, moves. -/
theorem step_chip {s : State} {reg v : Byte} {rest : List Input} (h : s.inputs = .chip reg v :: rest) :
    step s = .next (chipChanges reg v { s with inputs := rest }) := by
  simp [step, turn, h]

/-- The reset pin moves. -/
theorem step_reset {s : State} {d : ResetDraw} {rest : List Input} (h : s.inputs = .reset d :: rest) :
    step s = .next (resetBlock d { s with inputs := rest }) := by
  simp [step, turn, h]

/-- A property of the state that does not look at the inputs is kept by every step, if the chip, a reset and the block
keep it. -/
theorem step_keeps {P : State → Prop} (hin : ∀ s rest, P s → P { s with inputs := rest })
    (hchip : ∀ s reg v, P s → P (chipChanges reg v s)) (hreset : ∀ s d, P s → P (resetBlock d s))
    (hblock : ∀ s s', P s → blockStep s = .next s' → P s') {s s' : State} (hs : P s) (h : step s = .next s') :
    P s' := by
  rcases step_cases h with ⟨reg, v, rest, -, rfl⟩ | ⟨d, rest, -, rfl⟩ | ⟨rest, s1, -, h1, rfl⟩ | ⟨-, h1⟩
  · exact hchip _ _ _ (hin _ _ hs)
  · exact hreset _ _ (hin _ _ hs)
  · exact hin _ _ (hblock _ _ (hin _ _ hs) h1)
  · exact hblock _ _ hs h1

/-- The block stops only where it is busy and SEQ.step is past the micro-program of its command. -/
theorem blockStep_fault {s : State} {f : Fault} (h : blockStep s = .fault f) :
    s.busy = true ∧ ∃ i, decode (currentWord s) = some i ∧ stepCount i ≤ s.seqStep.toNat := by
  unfold blockStep at h
  split at h
  · split at h
    · exact ⟨‹_›, _, ‹_›, (exec_fault_iff _ s).1 ⟨f, h⟩⟩
    · cases h
  · cases h

/-- The block's step is never refused. -/
theorem blockStep_ne_refused (s : State) (r : Refusal) : blockStep s ≠ .refused r := by
  unfold blockStep
  split
  · split
    · exact exec_ne_refused _ s r
    · nofun
  · nofun

/-- A step stops only in a busy state whose SEQ.step is past the micro-program of its command. -/
theorem step_fault {s : State} {f : Fault} (h : step s = .fault f) :
    s.busy = true ∧ ∃ i, decode (currentWord s) = some i ∧ stepCount i ≤ s.seqStep.toNat := by
  unfold step turn quietStep at h
  split at h
  · cases h
  · cases h
  · cases hb : blockStep { s with inputs := [] } <;> rw [hb] at h <;> cases h
    have := blockStep_fault hb
    exact this
  · exact blockStep_fault h

/-- No step is refused. -/
theorem step_ne_refused (s : State) (r : Refusal) : step s ≠ .refused r := by
  intro h
  unfold step turn quietStep at h
  split at h
  · cases h
  · cases h
  · cases hb : blockStep { s with inputs := [] } <;> rw [hb] at h <;> cases h
    exact blockStep_ne_refused _ _ hb
  · exact blockStep_ne_refused _ _ h

/-- A busy block at a micro-step of a legal command performs that micro-step. -/
theorem blockStep_at {s : State} {i : Instr} {u : MicroStep} (hb : s.busy = true)
    (hd : decode (currentWord s) = some i) (hu : (microProgram i s.params s.t)[s.seqStep.toNat]? = some u) :
    blockStep s = .next (perform u (decide (s.seqStep.toNat + 1 = stepCount i)) s) := by
  simp [blockStep, hb, hd, exec_eq_runMicro, runMicro, hu]

/-- The micro-step behind an outstanding request (R48). -/
theorem outstanding_some {s : State} {r : Request} (h : outstanding s = some r) :
    s.busy = true ∧ ∃ i u, decode (currentWord s) = some i ∧
      (microProgram i s.params s.t)[s.seqStep.toNat]? = some u ∧ u.request = some r := by
  unfold outstanding currentMicroStep at h
  split at h
  · split at h
    · obtain ⟨u, h1, h2⟩ := Option.bind_eq_some_iff.1 h
      exact ⟨‹_›, _, u, ‹_›, h1, h2⟩
    · simp at h
  · simp at h

/-- A reset changes no register but the target of a write in flight (R190, U9). -/
theorem read_abandonInFlight_other (d : ResetDraw) {s : State} {a : Nat}
    (h : ∀ dev reg v, outstanding s = some (.write dev reg v) → a ≠ reg.toNat) :
    Memory.read (abandonInFlight d s) a = Memory.read s.periph a := by
  unfold abandonInFlight
  split
  · exact read_storeReg_other _ (h _ _ _ ‹_›) _
  · rfl

/-- The target of a write in flight takes the byte the reset's draw names (U9). -/
theorem read_abandonInFlight_target {d : ResetDraw} {s : State} {dev : DeviceAddr} {reg v b : Byte}
    (hw : Memory.wf s.periph) (ho : outstanding s = some (.write dev reg v)) (hr : reg.toNat < 8)
    (hl : d.landed = some b) : Memory.read (abandonInFlight d s) reg.toNat = b := by
  simp only [abandonInFlight, ho, hl]
  exact read_storeReg_same hw ((isNamed_iff _).2 hr) b

/-- Just after acceptance a legal command stands at the first micro-step of its micro-program. -/
theorem outstanding_accept {w : CommandWord} {i : Instr} (h : decode w = some i) (s : State) :
    outstanding (accept w s) = ((microProgram i s.params s.t)[0]?).bind MicroStep.request := by
  simp only [outstanding, currentMicroStep, accept_busy, if_true, currentWord, accept_seqOp, accept_a0, accept_a1,
    accept_a2, accept_a3, commandWord_fields, h]
  rfl

@[simp] theorem currentWord_perform (u : MicroStep) (last : Bool) (s : State) :
    currentWord (perform u last s) = currentWord s := by
  obtain ⟨hop, h0, h1, h2, h3, -, -⟩ := perform_frame u last s
  simp [currentWord, hop, h0, h1, h2, h3]

/-- The command word and the operand latches are constant while a command runs (R22, R24). -/
@[simp] theorem currentWord_accept (w : CommandWord) (s : State) :
    currentWord (accept w s) = commandWord w.op w.a3 w.a2 w.a1 w.a0 := rfl

end Sys2Proof.Machine
end

