-- ==== Sys2Proof/Laws/History.lean ====
section
/-! SUPPORT. What a micro-step adds to the history (R29), and reading a history. -/

namespace Sys2Proof.Machine

/-- A micro-step adds at most a transaction and a response, both well formed. -/
theorem perform_history (u : MicroStep) (last : Bool) (s : State) :
    ∃ events, (perform u last s).history = s.history ++ events ∧ events.length ≤ 2 ∧
      ∀ e ∈ events, e.wellFormed = true := by
  rcases perform_cases u last s with ⟨h, -, -⟩ | ⟨d, -, h⟩ | ⟨reg, use, a, s1, -, ht, h⟩ | ⟨reg, v, a, s1, -, ht, h⟩ <;>
    rw [h]
  · exact ⟨[], by simp, by simp, by simp⟩
  · exact ⟨_, rfl, by simp, by simp [Event.wellFormed, statusOk]⟩
  · obtain ⟨rest, -, rfl⟩ := takeAnswer_eq_some.1 ht
    obtain ⟨err, d⟩ := a
    rw [answerRead_eq]
    generalize (memRead reg ⟨err, d⟩ s.periph).2 = b
    cases use <;> cases last <;> cases err <;> cases hp : s.params.rmwReadErrAborts <;>
      simp [afterRead, advance, hp, Event.wellFormed, devAddr, statusOk, statusTransportError]
  · obtain ⟨rest, -, rfl⟩ := takeAnswer_eq_some.1 ht
    obtain ⟨err, d⟩ := a
    cases last <;> cases err <;>
      simp [answerWrite_eq, Event.wellFormed, devAddr, statusOk, statusTransportError]

/-! ## The response port -/

/-- A step that adds nothing gives no response. -/
theorem response_silent {s s' : State} (h : s'.history = s.history) : response s s' = none := by
  simp [response, h]

/-- The last event a step added. -/
theorem newest_event {s s' : State} {events : List Event} {e : Event} (h : s'.history = s.history ++ events ++ [e]) :
    (s'.history.drop s.history.length).getLast? = some e := by
  rw [h, List.append_assoc, List.drop_left, List.getLast?_append]
  rfl

/-- A step whose last new event is a response gives that response. -/
theorem response_completed {s s' : State} {events : List Event} {code : Status} {data : Option Byte}
    (h : s'.history = s.history ++ events ++ [.rsp code data]) : response s s' = some (code, data) := by
  rw [response, newest_event h]

/-- A step whose last new event is none gives no response. -/
theorem response_other {s s' : State} {events : List Event} {e : Event} (h : s'.history = s.history ++ events ++ [e])
    (he : ∀ code data, e ≠ .rsp code data) : response s s' = none := by
  rw [response, newest_event h]
  cases e <;> first | rfl | exact absurd rfl (he _ _)

/-! ## Reading a history -/

@[simp] theorem readHistory_nil (p : Params) : readHistory p [] = .closed := rfl

/-- Reading a history some events further. -/
@[simp] theorem readHistory_append (p : Params) (h events : List Event) :
    readHistory p (h ++ events) = events.foldl (Reading.next p) (readHistory p h) := by
  simp [readHistory]

/-- The micro-step a legal word stands at is its operation's. -/
theorem wordMicroStep_some {w : CommandWord} {i : Instr} (h : decode w = some i) (p : Params) (k : Nat) (t : Byte) :
    wordMicroStep p w k t = (microProgram i p t)[k]? := by
  simp [wordMicroStep, h]

/-- The first micro-step of a micro-program does not depend on T. -/
theorem microProgram_head (i : Instr) (p : Params) (t u : Byte) :
    (microProgram i p t)[0]? = (microProgram i p u)[0]? := by
  cases i <;> rfl

/-- A micro-program that begins with a write or an internal micro-step does not depend on T. -/
theorem microProgram_without_read {i : Instr} {p : Params} {t : Byte} {m : MicroStep}
    (h : (microProgram i p t)[0]? = some m) (hr : ∀ reg use, m ≠ .read reg use) (u v : Byte) :
    microProgram i p u = microProgram i p v := by
  cases i <;> first
    | rfl
    | exact absurd (Option.some.inj h).symm (hr _ _)

/-- A micro-step whose byte is merged is never the last; one whose byte is the result always is (R100 to R135). -/
theorem read_last_iff {i : Instr} {p : Params} {t reg : Byte} {use : ReadUse} {k : Nat}
    (h : (microProgram i p t)[k]? = some (.read reg use)) : k + 1 = stepCount i ↔ use ≠ .merge := by
  cases i <;> simp only [microProgram, initProgram, setDateProgram, setTimeProgram, getterProgram, rdrawProgram,
      wrrawProgram, d2bProgram, b2dProgram] at h <;>
    rcases k with _ | _ | _ | _ | _ | k <;> simp at h <;> simp [stepCount, ← h.2]

/-! ## Several steps -/

@[simp] theorem runSteps_zero (s : State) : runSteps 0 s = .next s := rfl

/-- A run whose first step is known. -/
theorem runSteps_succ_of {s s' : State} (h : step s = .next s') (n : Nat) : runSteps (n + 1) s = runSteps n s' := by
  simp [runSteps, h]

end Sys2Proof.Machine
end

