-- ==== Sys2Proof/Laws/PerInstr.lean ====
section
/-! SUPPORT. Two facts about every operation, one lemma per constructor: how long its micro-program is (R210), and
that the encoder puts its opcode into bits 39:32 (R80, R83). -/

namespace Sys2Proof.Laws.MicroProgramLength

/-- The micro-program has the operation's number of micro-steps, whatever the parameters and T are. -/
def Statement (i : Instr) : Prop :=
  ∀ (p : Params) (t : Byte), (Machine.microProgram i p t).length = Machine.stepCount i

theorem init : Statement .init := fun _ _ => rfl
theorem setdate (day month year weekDay : Byte) : Statement (.setdate day month year weekDay) := fun _ _ => rfl
theorem settime (hour minute second : Byte) : Statement (.settime hour minute second) := fun _ _ => rfl
theorem getsec : Statement .getsec := fun _ _ => rfl
theorem getmin : Statement .getmin := fun _ _ => rfl
theorem gethour : Statement .gethour := fun _ _ => rfl
theorem getwday : Statement .getwday := fun _ _ => rfl
theorem getday : Statement .getday := fun _ _ => rfl
theorem getmon : Statement .getmon := fun _ _ => rfl
theorem getyear : Statement .getyear := fun _ _ => rfl
theorem rdraw (addr : Byte) : Statement (.rdraw addr) := fun _ _ => rfl
theorem wrraw (addr value : Byte) : Statement (.wrraw addr value) := fun _ _ => rfl
theorem d2b (n : Byte) : Statement (.d2b n) := fun _ _ => rfl
theorem b2d (n : Byte) : Statement (.b2d n) := fun _ _ => rfl

end Sys2Proof.Laws.MicroProgramLength

namespace Sys2Proof.Laws.EncodedOpcode

/-- The encoder's word has the operation's opcode. -/
def Statement (i : Instr) : Prop := (encode i).op = i.opcode

theorem init : Statement .init := commandWord_op _ _ _ _ _
theorem setdate (day month year weekDay : Byte) : Statement (.setdate day month year weekDay) :=
  commandWord_op _ _ _ _ _
theorem settime (hour minute second : Byte) : Statement (.settime hour minute second) := commandWord_op _ _ _ _ _
theorem getsec : Statement .getsec := commandWord_op _ _ _ _ _
theorem getmin : Statement .getmin := commandWord_op _ _ _ _ _
theorem gethour : Statement .gethour := commandWord_op _ _ _ _ _
theorem getwday : Statement .getwday := commandWord_op _ _ _ _ _
theorem getday : Statement .getday := commandWord_op _ _ _ _ _
theorem getmon : Statement .getmon := commandWord_op _ _ _ _ _
theorem getyear : Statement .getyear := commandWord_op _ _ _ _ _
theorem rdraw (addr : Byte) : Statement (.rdraw addr) := commandWord_op _ _ _ _ _
theorem wrraw (addr value : Byte) : Statement (.wrraw addr value) := commandWord_op _ _ _ _ _
theorem d2b (n : Byte) : Statement (.d2b n) := commandWord_op _ _ _ _ _
theorem b2d (n : Byte) : Statement (.b2d n) := commandWord_op _ _ _ _ _

end Sys2Proof.Laws.EncodedOpcode
end

