-- ==== Sys2Proof/Tests/Slice0.lean ====
section
/-! SUPPORT. Tests: ill-formed lines refused, words written out from spec/30_encoding.md decoded, one-step checks
against spec/95_test_vectors.md, and a witness for the hypotheses of every statement that has some. -/

namespace Sys2Proof.Tests

open Sys2Proof.Machine Sys2Proof.Claims

/-! ## A small state and what a test looks at -/

/-- The transport answers without failure; its draw is not used by a named register. -/
def okAnswer : Answer := ⟨false, 0x5C#8⟩

/-- The transport reports a failure with draw 0xEE (the fixture of 95_test_vectors.md). -/
def badAnswer : Answer := ⟨true, 0xEE#8⟩

def ok : Input := .answer okAnswer

def bad : Input := .answer badAnswer

/-- What a reset finds: the register aimed at took the byte 0x77. -/
def drawn : ResetDraw := ⟨1#8, 2#3, 3#8, 4#8, 5#8, 6#8, 7#8, 8#8, some 0x77#8⟩

/-- A command in progress at a micro-step, with T, the inputs and the peripheral. -/
def busyAt (w : CommandWord) (k : StepIndex) (t : Byte) (inputs : List Input) (m : Memory) : State :=
  { State.reset with
    busy := true, seqOp := w.op, a3 := w.a3, a2 := w.a2, a1 := w.a1, a0 := w.a0, seqStep := k, t := t,
    inputs := inputs, periph := m }

/-- An idle block with these offers. -/
def idle (offers : List CommandWord) (inputs : List Input) : State :=
  { State.reset with offers := offers, inputs := inputs }

/-- What a test sees of an outcome: the history, BUSY, RES and the peripheral. -/
def seen : Host.Outcome State Fault Refusal → Option (List Event × Bool × Byte × Memory)
  | .next s => some (s.history, s.busy, s.res, s.periph)
  | .fault _ => none
  | .refused _ => none

/-- SETDATE 15, 6, 23, 4 (SD1). -/
def sd1 : CommandWord := 0x020417060F#40

/-- SETTIME 12, 34, 56 (ST1). -/
def st1 : CommandWord := 0x030038220C#40

/-! ## WellFormed refuses -/

theorem test_unknown_mnemonic : (⟨"GETCTRL", []⟩ : SourceLine).knownMnemonic = false := by decide
theorem test_lower_case_mnemonic_refused : (⟨"init", []⟩ : SourceLine).wellFormed = false := by decide
theorem test_operand_missing : (⟨"SETTIME", [12, 34]⟩ : SourceLine).operandCountRight = false := by decide
theorem test_operand_too_many : (⟨"GETSEC", [0]⟩ : SourceLine).wellFormed = false := by decide
theorem test_operand_too_wide : (⟨"D2B", [256]⟩ : SourceLine).operandsFit = false := by decide
theorem test_operand_widest_accepted : (⟨"D2B", [255]⟩ : SourceLine).wellFormed = true := by decide
theorem test_assemble_refuses_ill_formed :
    assemble ⟨"D2B", [256]⟩ = none ∧ assemble ⟨"GETCTRL", []⟩ = none ∧ assemble ⟨"WRRAW", [7]⟩ = none := by decide

/-! ## Decoding, words written out from R80, R82, R83 -/

theorem test_decode_init : decode 0x0100000000#40 = some .init := by decide
theorem test_decode_setdate : decode 0x020417060F#40 = some (.setdate 15#8 6#8 23#8 4#8) := by decide
theorem test_decode_settime : decode 0x030038220C#40 = some (.settime 12#8 34#8 56#8) := by decide
theorem test_decode_getsec : decode 0x1000000000#40 = some .getsec := by decide
theorem test_decode_getmin : decode 0x1100000000#40 = some .getmin := by decide
theorem test_decode_gethour : decode 0x12AABBCCDD#40 = some .gethour := by decide
theorem test_decode_getwday : decode 0x1300000000#40 = some .getwday := by decide
theorem test_decode_getday : decode 0x1400000000#40 = some .getday := by decide
theorem test_decode_getmon : decode 0x1500000000#40 = some .getmon := by decide
theorem test_decode_getyear : decode 0x1600000000#40 = some .getyear := by decide
theorem test_decode_rdraw : decode 0x200000003F#40 = some (.rdraw 0x3F#8) := by decide
theorem test_decode_wrraw : decode 0x2100009307#40 = some (.wrraw 0x07#8 0x93#8) := by decide
theorem test_decode_d2b : decode 0x300000003B#40 = some (.d2b 59#8) := by decide
theorem test_decode_b2d : decode 0x3100000059#40 = some (.b2d 0x59#8) := by decide

/-- 95_test_vectors.md 2.8: the edges of the holes in R83. -/
theorem test_decode_illegal_edges :
    decode 0x0000000000#40 = none ∧ decode 0x0400000000#40 = none ∧ decode 0x0F00000000#40 = none ∧
      decode 0x1700000000#40 = none ∧ decode 0x1F00000000#40 = none := by decide

theorem test_decode_illegal_operands :
    decode 0x2200000000#40 = none ∧ decode 0x3200000000#40 = none ∧ decode 0x9904030201#40 = none ∧
      decode 0xFFFFFFFFFF#40 = none := by decide

theorem test_decode_bytes :
    decodeBytes [0x03#8, 0x00#8, 0x38#8, 0x22#8, 0x0C#8, 0xFF#8] = some (.settime 12#8 34#8 56#8, [0xFF#8]) ∧
      decodeBytes [0x03#8, 0x00#8, 0x38#8, 0x22#8] = none := by decide

theorem test_decode_table_word : decodeTableWord 40 0x2100009307 = some (.wrraw 0x07#8 0x93#8) := by decide

theorem test_encode_setdate : encodeBytes (.setdate 31#8 12#8 99#8 7#8) = [0x02#8, 0x07#8, 0x63#8, 0x0C#8, 0x1F#8] := by
  decide

/-! ## The assembler (R90) -/

theorem test_assemble_line : assembleLine "  SETTIME 12, 34,56 ; ST1" = .command (.settime 12#8 34#8 56#8) := by decide
theorem test_assemble_hexadecimal : assembleLine "WRRAW 0x3f, 0xB9" = .command (.wrraw 0x3F#8 0xB9#8) := by decide
theorem test_assemble_decimal_letter : assembleLine "D2B 1A" = .lineRefused := by decide
theorem test_assemble_comment : assembleLine " ; nothing" = .blank := by decide
theorem test_assemble_too_wide : assembleLine "D2B 256" = .lineRefused := by decide

/-! ## Reset (R35) -/

theorem test_reset_idle : State.reset.busy = false ∧ State.reset.status = 0#2 ∧ State.reset.history = [] := by decide

theorem test_reset_runs_placed_word :
    step (State.reset.withFetchWord 40 0x300000003B) =
      exec (.d2b 59#8) (State.reset.withFetchWord 40 0x300000003B) := rfl

/-- RS3: a reset while a write is outstanding. -/
theorem test_reset_in_flight :
    seen (step (busyAt sd1 1#3 0#8 [.reset drawn] [(4, 0x15#8)])) =
      some ([], false, 8#8, [(4, 0x15#8), (5, 0x77#8)]) := by decide

/-- R32: a silence lets no transaction go on, whatever answer comes after it. -/
theorem test_quiet_waits :
    seen (step (busyAt sd1 1#3 0#8 [.quiet, ok] [])) = some ([], true, 0#8, []) := by decide

/-- R30, R190: a silence lets the acceptance come before the reset. -/
theorem test_quiet_accepts :
    seen (step (idle [sd1] [.quiet, .reset drawn])) = some ([.cmd sd1], true, 0#8, []) := by decide

/-! ## One micro-step of each operation (95_test_vectors.md) -/

/-- S4. -/
theorem test_init_write :
    seen (step (busyAt 0x0100000000#40 1#3 0x25#8 [ok] [(2, 0x25#8)])) =
      some ([.wr 0x68#7 2#8 0x05#8 false], true, 0#8, [(2, 0x05#8)]) := by decide

/-- I7. -/
theorem test_init_mode_constant :
    seen (exec .init { busyAt 0x0100000000#40 1#3 0x25#8 [ok] [] with params := ⟨0xFF#8, .flagOnly, true⟩ }) =
      some ([.wr 0x68#7 2#8 0xE5#8 false], true, 0#8, [(2, 0xE5#8)]) := by decide

/-- SD1, fourth write. -/
theorem test_setdate_last :
    seen (step (busyAt sd1 3#3 0#8 [ok] [(3, 0x01#8)])) =
      some ([.wr 0x68#7 3#8 0x04#8 false, .rsp 0#2 none], false, 0#8, [(3, 0x04#8)]) := by decide

/-- SD9. -/
theorem test_setdate_third_fails :
    seen (step (busyAt sd1 2#3 0#8 [bad] [(3, 0x01#8)])) =
      some ([.wr 0x68#7 6#8 0x23#8 true, .rsp 1#2 none], false, 0#8, [(3, 0x01#8), (6, 0xEE#8)]) := by decide

/-- The hours table of 2.5, row 0x12 and 12. -/
theorem test_settime_hours :
    seen (step (busyAt st1 1#3 0x12#8 [ok] [(2, 0x12#8)])) =
      some ([.wr 0x68#7 2#8 0x30#8 false], true, 0#8, [(2, 0x30#8)]) := by decide

/-- ST2: the seconds write with the halt flag set. -/
theorem test_settime_halted :
    seen (step (busyAt st1 4#3 0x80#8 [ok] [(0, 0x80#8)])) =
      some ([.wr 0x68#7 0#8 0x24#8 false, .rsp 0#2 none], false, 0#8, [(0, 0x24#8)]) := by decide

/-- S7. -/
theorem test_getsec :
    seen (step (busyAt 0x1000000000#40 0#3 0#8 [ok] [(0, 0x8A#8)])) =
      some ([.rd 0x68#7 0#8 false 0x8A#8, .rsp 0#2 (some 0x0A#8)], false, 0x0A#8, [(0, 0x8A#8)]) := by decide

/-- 2.6: the failed read. -/
theorem test_getsec_read_fails :
    seen (step (busyAt 0x1000000000#40 0#3 0#8 [bad] [(0, 0x8A#8)])) =
      some ([.rd 0x68#7 0#8 true 0xEE#8, .rsp 0#2 (some 0x4A#8)], false, 0x4A#8, [(0, 0x8A#8)]) := by decide

theorem test_getmin :
    seen (step (busyAt 0x1100000000#40 0#3 0#8 [ok] [(1, 0xFF#8)])) =
      some ([.rd 0x68#7 1#8 false 0xFF#8, .rsp 0#2 (some 0xA5#8)], false, 0xA5#8, [(1, 0xFF#8)]) := by decide

theorem test_gethour :
    seen (step (busyAt 0x12AABBCCDD#40 0#3 0#8 [ok] [(2, 0xFF#8)])) =
      some ([.rd 0x68#7 2#8 false 0xFF#8, .rsp 0#2 (some 0x2D#8)], false, 0x2D#8, [(2, 0xFF#8)]) := by decide

theorem test_getwday :
    seen (step (busyAt 0x1300000000#40 0#3 0#8 [ok] [(3, 0x04#8)])) =
      some ([.rd 0x68#7 3#8 false 0x04#8, .rsp 0#2 (some 0x04#8)], false, 0x04#8, [(3, 0x04#8)]) := by decide

theorem test_getday :
    seen (step (busyAt 0x1400000000#40 0#3 0#8 [ok] [(4, 0x15#8)])) =
      some ([.rd 0x68#7 4#8 false 0x15#8, .rsp 0#2 (some 0x0F#8)], false, 0x0F#8, [(4, 0x15#8)]) := by decide

theorem test_getmon :
    seen (step (busyAt 0x1500000000#40 0#3 0#8 [ok] [(5, 0x12#8)])) =
      some ([.rd 0x68#7 5#8 false 0x12#8, .rsp 0#2 (some 0x0C#8)], false, 0x0C#8, [(5, 0x12#8)]) := by decide

theorem test_getyear :
    seen (step (busyAt 0x1600000000#40 0#3 0#8 [ok] [(6, 0xB4#8)])) =
      some ([.rd 0x68#7 6#8 false 0xB4#8, .rsp 0#2 (some 0x72#8)], false, 0x72#8, [(6, 0xB4#8)]) := by decide

/-- 2.7: an address above 0x07 is forwarded; the transport answers 0x5C. -/
theorem test_rdraw_unnamed :
    seen (step (busyAt 0x200000003F#40 0#3 0#8 [ok] [(7, 0x93#8)])) =
      some ([.rd 0x68#7 0x3F#8 false 0x5C#8, .rsp 0#2 (some 0x5C#8)], false, 0x5C#8, [(7, 0x93#8)]) := by decide

theorem test_rdraw_named :
    seen (step (busyAt 0x2000000007#40 0#3 0#8 [ok] [(7, 0x93#8)])) =
      some ([.rd 0x68#7 7#8 false 0x93#8, .rsp 0#2 (some 0x93#8)], false, 0x93#8, [(7, 0x93#8)]) := by decide

/-- 2.7: the value is written as given; zero leaves the canonical form. -/
theorem test_wrraw_zero :
    seen (step (busyAt 0x2100000000#40 0#3 0#8 [ok] [(0, 0x80#8)])) =
      some ([.wr 0x68#7 0#8 0x00#8 false, .rsp 0#2 none], false, 0#8, []) := by decide

theorem test_wrraw_unnamed :
    seen (step (busyAt 0x210000A508#40 0#3 0#8 [ok] [(0, 0x80#8)])) =
      some ([.wr 0x68#7 8#8 0xA5#8 false, .rsp 0#2 none], false, 0#8, [(0, 0x80#8)]) := by decide

/-- 2.1, row 160: bit 8 is dropped. -/
theorem test_d2b :
    seen (step (busyAt 0x30000000A0#40 0#3 0#8 [] [])) = some ([.rsp 0#2 (some 0x00#8)], false, 0x00#8, []) := by decide

/-- 2.2, row 0xFF. -/
theorem test_b2d :
    seen (step (busyAt 0x31000000FF#40 0#3 0#8 [] [])) = some ([.rsp 0#2 (some 0xA5#8)], false, 0xA5#8, []) := by decide

/-- 2.8. -/
theorem test_illegal :
    seen (step (busyAt 0x9904030201#40 0#3 0#8 [] [(0, 0x80#8)])) =
      some ([.rsp 2#2 none], false, 0#8, [(0, 0x80#8)]) := by decide

/-- RS4: a command offered while BUSY is 1 is not accepted. -/
theorem test_busy_not_ready :
    seen (step { busyAt sd1 0#3 0#8 [] [] with offers := [st1] }) = some ([], true, 0#8, []) := by decide

/-- R40: the request and the response as the ports show them. -/
theorem test_ports :
    tReqRw (busyAt sd1 1#3 0#8 [] []) = some 0#1 ∧ tReqReg (busyAt sd1 1#3 0#8 [] []) = some 0x05#8 ∧
      tReqWdata (busyAt sd1 1#3 0#8 [] []) = some 0x06#8 ∧ tReqValid (busyAt 0x300000003B#40 0#3 0#8 [] []) = false := by
  decide

/-- R26, R40: the last write of SETDATE completes with no data, though RES holds a byte; GETSEC's read with RES. -/
theorem test_rsp_data :
    (∃ s', step { busyAt sd1 3#3 0#8 [ok] [] with res := 0x42#8 } = .next s' ∧
      rspValid { busyAt sd1 3#3 0#8 [ok] [] with res := 0x42#8 } s' = true ∧
      rspData { busyAt sd1 3#3 0#8 [ok] [] with res := 0x42#8 } s' = none ∧ s'.res = 0x42#8) ∧
    ∃ s', step (busyAt 0x1000000000#40 0#3 0#8 [ok] [(0, 0x59#8)]) = .next s' ∧
      rspData (busyAt 0x1000000000#40 0#3 0#8 [ok] [(0, 0x59#8)]) s' = some 59#8 :=
  ⟨⟨_, rfl, rfl, rfl, rfl⟩, _, rfl, rfl⟩

/-! ## Witnesses: states and operands that meet the hypotheses of the statements -/

theorem witness_DecodeEncodeAgree :
    decode 0x12AABBCCDD#40 = some .gethour ∧ decode 0x02FFFFFFFF#40 = some (.setdate 255#8 255#8 255#8 255#8) := by
  decide

theorem witness_OpcodeAloneSelects :
    decode 0x0301020304#40 = some (.settime 4#8 3#8 2#8) ∧ CommandWord.op 0x0301020304#40 = CommandWord.op 0x0300000000#40 := by decide

theorem witness_IllegalOpcodes :
    decode 0x04FFFFFFFF#40 = none ∧ BlockMoves (idle [0x04FFFFFFFF#40] []) ∧
      (idle [0x04FFFFFFFF#40] []).busy = false ∧ (idle [0x04FFFFFFFF#40] []).offers = [0x04FFFFFFFF#40] := by
  refine ⟨by decide, rfl, rfl, rfl⟩

theorem witness_UnusedOperandsIgnored :
    (decode st1 = some (.settime 12#8 34#8 56#8) ∧ CommandWord.op 0x03FF38220C#40 = st1.op ∧ CommandWord.a0 0x03FF38220C#40 = st1.a0 ∧
      CommandWord.a1 0x03FF38220C#40 = st1.a1 ∧ CommandWord.a2 0x03FF38220C#40 = st1.a2) ∧
    ((busyAt st1 4#3 0x80#8 [ok] []).busy = true ∧ BlockMoves (busyAt st1 4#3 0x80#8 [ok] []) ∧
      decode (commandWord (busyAt st1 4#3 0x80#8 [ok] []).seqOp 0xFF#8 56#8 34#8 12#8) =
        decode (currentWord (busyAt st1 4#3 0x80#8 [ok] []))) ∧
    (Instr.b2d 1#8).operands.length ≤ 1 ∧ (Instr.wrraw 1#8 1#8).operands.length ≤ 2 ∧
      (Instr.settime 1#8 1#8 1#8).operands.length ≤ 3 ∧ Instr.init.operands.length ≤ 0 := by
  refine ⟨by decide, ⟨rfl, rfl, by decide⟩, by decide⟩

/-- The ends of the ranges of R140, R141, R146, R147. -/
theorem witness_ExactEncoder :
    (99#8).toNat ≤ 99 ∧ (100 ≤ (100#8).toNat ∧ (100#8).toNat ≤ 159) ∧ (100 ≤ (159#8).toNat ∧ (159#8).toNat ≤ 159) ∧
      160 ≤ (160#8).toNat ∧ d2b9 99#8 = 0x099#9 ∧ d2b9 100#8 = 0x0A0#9 ∧ d2b9 159#8 = 0x0F9#9 ∧
      d2b9 160#8 = 0x100#9 := by decide

theorem witness_ByteEncoderDropsCarry :
    (159#8).toNat < 160 ∧ d2b 159#8 = 0xF9#8 ∧ 160 ≤ (255#8).toNat ∧ d2b 255#8 = 0x95#8 := by decide

theorem witness_CodecRoundTrip :
    (99#8).toNat ≤ 99 ∧ (busyAt 0x3000000063#40 0#3 0#8 [] []).seqStep = 0#3 ∧
      (busyAt 0x3100000099#40 0#3 0#8 [] []).seqStep = 0#3 := by decide

theorem witness_CodecLaws :
    (159#8).toNat ≤ 159 ∧ 160 ≤ (160#8).toNat ∧ (159#8).toNat < (160#8).toNat ∧ d2b 159#8 = d2b 159#8 := by decide

theorem witness_StepRunsDecodedInstruction :
    BlockMoves (busyAt st1 0#3 0#8 [ok] []) ∧ (busyAt st1 0#3 0#8 [ok] []).busy = true ∧
      decode (currentWord (busyAt st1 0#3 0#8 [ok] [])) = some (.settime 12#8 34#8 56#8) := by
  refine ⟨rfl, rfl, by decide⟩

theorem witness_AcceptanceLatchesCommand :
    (BlockMoves (idle [st1, sd1] [ok]) ∧ (idle [st1, sd1] [ok]).busy = false ∧
      (idle [st1, sd1] [ok]).offers = [st1, sd1]) ∧ (busyAt st1 0#3 0#8 [ok] []).busy = true := by
  refine ⟨⟨rfl, rfl, rfl⟩, rfl⟩

theorem witness_IdleBlockHasNoStep :
    BlockMoves (idle [] [ok]) ∧ (idle [] [ok]).busy = false ∧ (idle [] [ok]).offers = [] := by
  refine ⟨rfl, rfl, rfl⟩

theorem witness_BlockWaitsForAnswer :
    outstanding (busyAt sd1 3#3 0#8 [] []) = some (.write 0x68#7 0x03#8 0x04#8) ∧
      (busyAt sd1 3#3 0#8 [] []).inputs = [] := by decide

/-- A silence while a transaction waits, and one in which an internal micro-step goes on. -/
theorem witness_SilenceLetsTheBlockMove :
    (busyAt sd1 3#3 0#8 [.quiet, ok] []).inputs = [.quiet, ok] ∧
      (busyAt 0x300000003B#40 0#3 0#8 [.quiet, .reset drawn] []).inputs = [.quiet, .reset drawn] := by decide

/-- A command that waits, and one that moves to the highest index there is. -/
theorem witness_SequencerNeverGoesBack :
    (step (busyAt sd1 1#3 0#8 [] []) = .next (busyAt sd1 1#3 0#8 [] []) ∧
      (busyAt sd1 1#3 0#8 [] []).seqStep.toNat < currentStepCount (busyAt sd1 1#3 0#8 [] [])) ∧
    ∃ s', step (busyAt st1 3#3 0#8 [ok] []) = .next s' ∧ (busyAt st1 3#3 0#8 [ok] []).busy = true ∧ s'.busy = true ∧
      (busyAt st1 3#3 0#8 [ok] []).seqStep.toNat < currentStepCount (busyAt st1 3#3 0#8 [ok] []) ∧ s'.seqStep = 4#3 := by
  refine ⟨⟨rfl, by decide⟩, _, rfl, rfl, rfl, by decide, by decide⟩

/-- Reads and writes at 0x07, the last named register, and at 0x08, with either answer. -/
theorem witness_AnsweredRequestIsRecorded :
    (busyAt 0x2000000007#40 0#3 0#8 [ok] []).inputs = [.answer okAnswer] ∧
      outstanding (busyAt 0x2000000007#40 0#3 0#8 [ok] []) = some (.read 0x68#7 0x07#8) ∧ okAnswer.err = false ∧
      (0x07#8).toNat < 8 ∧
      (busyAt 0x2000000008#40 0#3 0#8 [bad] []).inputs = [.answer badAnswer] ∧
      outstanding (busyAt 0x2000000008#40 0#3 0#8 [bad] []) = some (.read 0x68#7 0x08#8) ∧ badAnswer.err = true ∧
      outstanding (busyAt 0x2100009307#40 0#3 0#8 [ok] []) = some (.write 0x68#7 0x07#8 0x93#8) ∧
      Memory.wf (busyAt 0x2100009307#40 0#3 0#8 [ok] []).periph := by decide

theorem witness_ChipChangesOneRegister :
    (busyAt st1 1#3 0#8 [.chip 0x07#8 0x10#8, ok] [(2, 0x12#8)]).inputs = [.chip 0x07#8 0x10#8, ok] ∧
      Memory.wf (busyAt st1 1#3 0#8 [.chip 0x07#8 0x10#8, ok] [(2, 0x12#8)]).periph ∧ (0x07#8).toNat < 8 ∧
      (idle [] [.chip 0x08#8 0x10#8]).inputs = [.chip 0x08#8 0x10#8] := by decide

theorem witness_ParametersNeverChange : ∃ s', step (busyAt st1 3#3 0#8 [ok] []) = .next s' := ⟨_, rfl⟩

/-- A step that adds no event and one that adds two. -/
theorem witness_HistoryOnlyGrows :
    (∃ s', step (busyAt sd1 1#3 0#8 [] []) = .next s' ∧ s'.history.length = 0) ∧
      ∃ s', step (busyAt sd1 3#3 0#8 [ok] []) = .next s' ∧ s'.history.length = 2 :=
  ⟨⟨_, rfl, rfl⟩, _, rfl, rfl⟩

theorem witness_InitCompletes :
    (busyAt 0x0100000000#40 0#3 0#8 [ok, ok, ok, bad] [(2, 0x25#8)]).seqStep = 0#3 ∧
      (busyAt 0x0100000000#40 0#3 0#8 [ok, ok, ok, bad] [(2, 0x25#8)]).inputs =
        [.answer okAnswer, .answer okAnswer, .answer okAnswer, bad] ∧ okAnswer.err = false := by decide

/-- I10: the read fails and is not reported. -/
theorem witness_InitCompletes_read_fails :
    ({ busyAt 0x0100000000#40 0#3 0#8 [bad, ok, ok] [] with params := ⟨0#8, .flagOnly, false⟩ } : State).inputs =
        [.answer badAnswer, .answer okAnswer, .answer okAnswer] ∧
      badAnswer.err = true ∧ (⟨0#8, .flagOnly, false⟩ : Params).rmwReadErrAborts = false := by decide

theorem witness_InitAborts :
    (∀ k ∈ [0#3, 1#3, 2#3], (busyAt 0x0100000000#40 k 0x25#8 [bad] []).seqStep = k ∧
      (busyAt 0x0100000000#40 k 0x25#8 [bad] []).inputs = [.answer badAnswer]) ∧ badAnswer.err = true ∧
      (busyAt 0x0100000000#40 0#3 0#8 [bad] []).params.rmwReadErrAborts = true := by decide

/-- I6. -/
theorem witness_InitIsIdempotent :
    Memory.wf [(2, 0x1F#8), (7, 0x93#8)] ∧ (busyAt 0x0100000000#40 0#3 0#8 [ok, ok, ok] []).seqStep = 0#3 ∧
      (busyAt 0x0100000000#40 0#3 0#8 [ok, ok, ok] []).inputs =
        [.answer okAnswer, .answer okAnswer, .answer okAnswer] ∧ okAnswer.err = false ∧
      Memory.read [(2, 0x1F#8), (7, 0x93#8)] 2 =
        ((0xFF#8 &&& 0x1F#8) ||| (defaultParams.modeConst &&& 0xE0#8)) ∧
      Memory.read [(2, 0x1F#8), (7, 0x93#8)] 7 = 0x93#8 := by decide

theorem witness_InitWritesBackStaleHours :
    Memory.wf [(2, 0x25#8)] ∧
      (busyAt 0x0100000000#40 0#3 0#8 [ok, .chip 0x02#8 0x26#8, ok] [(2, 0x25#8)]).seqStep = 0#3 ∧
      (busyAt 0x0100000000#40 0#3 0#8 [ok, .chip 0x02#8 0x26#8, ok] [(2, 0x25#8)]).busy = true ∧
      decode (currentWord (busyAt 0x0100000000#40 0#3 0#8 [ok, .chip 0x02#8 0x26#8, ok] [(2, 0x25#8)])) =
        some .init ∧
      (busyAt 0x0100000000#40 0#3 0#8 [ok, .chip 0x02#8 0x26#8, ok] [(2, 0x25#8)]).inputs =
        [.answer okAnswer, .chip 0x02#8 0x26#8, .answer okAnswer] ∧ okAnswer.err = false := by decide

theorem witness_SetDateCompletes :
    (busyAt sd1 0#3 0#8 [ok, ok, ok, ok] []).seqStep = 0#3 ∧
      (busyAt sd1 0#3 0#8 [ok, ok, ok, ok] []).inputs =
        [.answer okAnswer, .answer okAnswer, .answer okAnswer, .answer okAnswer] ∧ okAnswer.err = false := by decide

theorem witness_SetDateAborts :
    (∀ k ∈ [0#3, 1#3, 2#3, 3#3], (busyAt sd1 k 0#8 [bad] []).seqStep = k ∧
      (busyAt sd1 k 0#8 [bad] []).inputs = [.answer badAnswer]) ∧ badAnswer.err = true := by decide

theorem witness_SetTimeCompletes :
    (busyAt st1 0#3 0#8 [ok, ok, ok, ok, ok] [(0, 0x80#8), (2, 0x05#8)]).seqStep = 0#3 ∧
      (busyAt st1 0#3 0#8 [ok, ok, ok, ok, ok] [(0, 0x80#8), (2, 0x05#8)]).inputs =
        [.answer okAnswer, .answer okAnswer, .answer okAnswer, .answer okAnswer, .answer okAnswer] ∧
      okAnswer.err = false := by decide

/-- SF6, SF7: a read fails and is not reported. -/
theorem witness_SetTimeCompletes_read_fails :
    ({ busyAt st1 0#3 0#8 [bad, ok, ok, bad, ok] [] with params := ⟨0#8, .flagOnly, false⟩ } : State).inputs =
        [.answer badAnswer, .answer okAnswer, .answer okAnswer, .answer badAnswer, .answer okAnswer] ∧
      badAnswer.err = true ∧ okAnswer.err = false ∧
      (⟨0#8, .flagOnly, false⟩ : Params).rmwReadErrAborts = false := by decide

/-- The hours and the seconds change between read and write. -/
theorem witness_SetTimeWritesBackStaleBytes :
    Memory.wf [(0, 0x30#8), (2, 0x12#8)] ∧ okAnswer.err = false ∧
      (busyAt st1 0#3 0#8 [ok, .chip 0x02#8 0x13#8, ok] [(0, 0x30#8), (2, 0x12#8)]).busy = true ∧
      decode (currentWord (busyAt st1 0#3 0#8 [ok, .chip 0x02#8 0x13#8, ok] [(0, 0x30#8), (2, 0x12#8)])) =
        some (.settime 12#8 34#8 56#8) ∧
      (busyAt st1 3#3 0#8 [ok, .chip 0x00#8 0x31#8, ok] [(0, 0x30#8), (2, 0x12#8)]).seqStep = 3#3 ∧
      (busyAt st1 3#3 0#8 [ok, .chip 0x00#8 0x31#8, ok] [(0, 0x30#8), (2, 0x12#8)]).inputs =
        [.answer okAnswer, .chip 0x00#8 0x31#8, .answer okAnswer] := by decide

theorem witness_SetTimeAborts :
    (∀ k ∈ [0#3, 1#3, 2#3, 3#3, 4#3], (busyAt st1 k 0x80#8 [bad] []).seqStep = k ∧
      (busyAt st1 k 0x80#8 [bad] []).inputs = [.answer badAnswer]) ∧ badAnswer.err = true ∧
      (busyAt st1 0#3 0#8 [bad] []).params.rmwReadErrAborts = true := by decide

theorem witness_IgnoredReadFailureGoesOn :
    ∀ k ∈ [0#3, 3#3],
      ({ busyAt st1 k 0#8 [bad] [] with params := ⟨0#8, .wholeByte, false⟩ } : State).inputs = [.answer badAnswer] ∧
      ({ busyAt st1 k 0#8 [bad] [] with params := ⟨0#8, .wholeByte, false⟩ } : State).params.rmwReadErrAborts = false ∧
      ({ busyAt st1 k 0#8 [bad] [] with params := ⟨0#8, .wholeByte, false⟩ } : State).seqStep = k ∧
      badAnswer.err = true := by decide

/-- 23:59:59, the latest time, on cleared registers. -/
theorem witness_SetTimeOnClearedRegistersReadsBack :
    Memory.wf [(0, 0x59#8)] ∧ (busyAt 0x03003B3B17#40 0#3 0#8 [ok, ok, ok, ok, ok] [(0, 0x59#8)]).seqStep = 0#3 ∧
      (busyAt 0x03003B3B17#40 0#3 0#8 [ok, ok, ok, ok, ok] [(0, 0x59#8)]).inputs =
        [.answer okAnswer, .answer okAnswer, .answer okAnswer, .answer okAnswer, .answer okAnswer] ∧
      okAnswer.err = false ∧
      (busyAt 0x03003B3B17#40 0#3 0#8 [ok, ok, ok, ok, ok] [(0, 0x59#8)]).params.secKeepMask = .flagOnly ∧
      Memory.read [(0, 0x59#8)] 2 = 0x00#8 ∧ Memory.read [(0, 0x59#8)] 0 &&& 0x80#8 = 0#8 ∧
      (23#8).toNat ≤ 23 ∧ (59#8).toNat ≤ 59 := by decide

/-- Seconds 31 and 32, on either side of the lost carry, and 59. -/
theorem witness_SetTimeOnHaltedChip :
    Memory.wf [(0, 0x80#8)] ∧ (busyAt st1 4#3 0x80#8 [ok] [(0, 0x80#8)]).seqStep = 4#3 ∧
      (busyAt st1 4#3 0x80#8 [ok] [(0, 0x80#8)]).inputs = [.answer okAnswer] ∧ okAnswer.err = false ∧
      (busyAt st1 4#3 0x80#8 [ok] [(0, 0x80#8)]).params.secKeepMask = .flagOnly ∧
      (busyAt st1 4#3 0x80#8 [ok] [(0, 0x80#8)]).t &&& 0x80#8 = 0x80#8 ∧
      d2b (BitVec.ofNat 8 (128 + 31)) = 0xF9#8 ∧ d2b (BitVec.ofNat 8 (128 + 32)) = 0x00#8 ∧
      (59#8).toNat ≤ 59 := by decide

theorem witness_GettersComplete :
    (busyAt 0x1000000000#40 0#3 0#8 [bad, ok] [(0, 0x8A#8)]).seqStep = 0#3 ∧
      (busyAt 0x1000000000#40 0#3 0#8 [bad, ok] [(0, 0x8A#8)]).inputs = [.answer badAnswer, ok] := by decide

theorem witness_RdrawCompletes :
    (busyAt 0x2000000008#40 0#3 0#8 [ok] []).seqStep = 0#3 ∧
      (busyAt 0x2000000008#40 0#3 0#8 [ok] []).inputs = [.answer okAnswer] ∧ okAnswer.err = false ∧
      (0x07#8).toNat < 8 ∧ ¬ (0x08#8).toNat < 8 := by decide

theorem witness_WrrawCompletes :
    (busyAt 0x2100009307#40 0#3 0#8 [ok] []).seqStep = 0#3 ∧
      (busyAt 0x2100009307#40 0#3 0#8 [ok] []).inputs = [.answer okAnswer] ∧ okAnswer.err = false := by decide

theorem witness_WrrawAborts :
    (busyAt 0x2100009307#40 0#3 0#8 [bad] []).seqStep = 0#3 ∧
      (busyAt 0x2100009307#40 0#3 0#8 [bad] []).inputs = [.answer badAnswer] ∧ badAnswer.err = true := by decide

theorem witness_CodecCommandsComplete : (busyAt 0x30000000FF#40 0#3 0#8 [] []).seqStep = 0#3 := by decide

theorem witness_ReadersFrame :
    readsOnly .getyear = true ∧ ∃ s', exec .getyear (busyAt 0x1600000000#40 0#3 0#8 [ok] []) = .next s' :=
  ⟨rfl, _, rfl⟩

theorem witness_CodecFrame :
    (∃ s', exec (.d2b 160#8) (busyAt 0x30000000A0#40 0#3 0#8 [] []) = .next s') ∧
      ∃ s', exec (.b2d 0xFF#8) (busyAt 0x31000000FF#40 0#3 0#8 [] []) = .next s' := ⟨⟨_, rfl⟩, _, rfl⟩

/-- A micro-step that stores, one that reads, and the forms with clauses of their own. -/
theorem witness_WritersFrame :
    (surfacesFailure (.settime 12#8 34#8 56#8) = true ∧
      (∃ s', exec (.settime 12#8 34#8 56#8) (busyAt st1 2#3 0#8 [ok] []) = .next s' ∧ s'.busy = true) ∧
      storeAddress (.settime 12#8 34#8 56#8) (busyAt st1 2#3 0#8 [ok] []) = some 1 ∧
      storeAddress (.settime 12#8 34#8 56#8) (busyAt st1 3#3 0#8 [ok] []) = none) ∧
    (∃ s', exec (.setdate 15#8 6#8 23#8 4#8) (busyAt sd1 3#3 0#8 [bad] []) = .next s') ∧
    ∃ s', exec (.wrraw 0xFF#8 1#8) (busyAt 0x21000001FF#40 0#3 0#8 [ok] []) = .next s' :=
  ⟨⟨rfl, ⟨_, rfl, rfl⟩, by decide, by decide⟩, ⟨_, rfl⟩, _, rfl⟩

theorem witness_IllegalCommandRefused :
    BlockMoves (busyAt 0x9904030201#40 0#3 0#8 [] []) ∧ (busyAt 0x9904030201#40 0#3 0#8 [] []).busy = true ∧
      decode (currentWord (busyAt 0x9904030201#40 0#3 0#8 [] [])) = none := by
  refine ⟨rfl, rfl, by decide⟩

/-- A failed read with RMW_READ_ERR_ABORTS true, and a failed write. -/
theorem witness_SurfacedFailureEndsCommand :
    (surfacesFailure .init = true ∧
      microStepAt .init (busyAt 0x0100000000#40 0#3 0#8 [bad] []) = some (.read 0x02#8 .merge) ∧
      (busyAt 0x0100000000#40 0#3 0#8 [bad] []).inputs = [.answer badAnswer] ∧ badAnswer.err = true ∧
      (busyAt 0x0100000000#40 0#3 0#8 [bad] []).params.rmwReadErrAborts = true) ∧
    microStepAt (.setdate 15#8 6#8 23#8 4#8) (busyAt sd1 3#3 0#8 [bad] []) = some (.write 0x03#8 0x04#8) := by decide

/-- One operation that surfaces failures, completing either way, and one that does not. -/
theorem witness_CompletionStatus :
    (∃ s', exec (.setdate 15#8 6#8 23#8 4#8) (busyAt sd1 3#3 0#8 [ok] []) = .next s' ∧ s'.busy = false ∧
      s'.status = 0#2) ∧
    (∃ s', exec (.setdate 15#8 6#8 23#8 4#8) (busyAt sd1 3#3 0#8 [bad] []) = .next s' ∧ s'.busy = false ∧
      s'.status = 1#2) ∧
    surfacesFailure (.setdate 15#8 6#8 23#8 4#8) = true ∧ surfacesFailure .getsec = false ∧
    ∃ s', exec .getsec (busyAt 0x1000000000#40 0#3 0#8 [bad] []) = .next s' ∧ s'.busy = false :=
  ⟨⟨_, rfl, rfl, rfl⟩, ⟨_, rfl, rfl, rfl⟩, rfl, rfl, _, rfl, rfl⟩

/-- Steps that complete: an operation without a result, one with a result, an illegal command; and one that does not. -/
theorem witness_ResponsePortsShowCompletion :
    (∃ s', step (busyAt sd1 3#3 0#8 [bad] []) = .next s' ∧ rspValid (busyAt sd1 3#3 0#8 [bad] []) s' = true ∧
      decode (currentWord (busyAt sd1 3#3 0#8 [bad] [])) = some (.setdate 15#8 6#8 23#8 4#8)) ∧
    (∃ s', step (busyAt 0x300000003B#40 0#3 0#8 [] []) = .next s' ∧
      rspValid (busyAt 0x300000003B#40 0#3 0#8 [] []) s' = true ∧
      decode (currentWord (busyAt 0x300000003B#40 0#3 0#8 [] [])) = some (.d2b 59#8)) ∧
    (∃ s', step (busyAt 0x9904030201#40 0#3 0#8 [] []) = .next s' ∧
      rspValid (busyAt 0x9904030201#40 0#3 0#8 [] []) s' = true ∧
      decode (currentWord (busyAt 0x9904030201#40 0#3 0#8 [] [])) = none) ∧
    ∃ s', step (busyAt sd1 3#3 0#8 [.reset drawn] []) = .next s' ∧
      rspValid (busyAt sd1 3#3 0#8 [.reset drawn] []) s' = false :=
  ⟨⟨_, rfl, rfl, by decide⟩, ⟨_, rfl, rfl, by decide⟩, ⟨_, rfl, rfl, by decide⟩, _, rfl, rfl⟩

/-- A reset with a write in flight at 0x03 that lands, and one with nothing in flight. -/
theorem witness_ResetAbandonsCommand :
    (busyAt sd1 3#3 0#8 [.reset drawn, ok] []).inputs = [.reset drawn, ok] ∧
      Memory.wf (busyAt sd1 3#3 0#8 [.reset drawn, ok] []).periph ∧
      outstanding (busyAt sd1 3#3 0#8 [.reset drawn, ok] []) = some (.write 0x68#7 0x03#8 0x04#8) ∧
      (0x03#8).toNat < 8 ∧ drawn.landed = some 0x77#8 ∧ outstanding (idle [] [.reset drawn]) = none := by decide

/-- WRRAW reset before its write is answered, and SETDATE. -/
theorem witness_ResetBeforeFirstMicroStep :
    (idle [0x2100009307#40, st1] [.quiet, .reset drawn, ok]).busy = false ∧
      (idle [0x2100009307#40, st1] [.quiet, .reset drawn, ok]).offers = [0x2100009307#40, st1] ∧
      (idle [0x2100009307#40, st1] [.quiet, .reset drawn, ok]).inputs = [.quiet, .reset drawn, ok] ∧
      Memory.wf (idle [0x2100009307#40, st1] [.quiet, .reset drawn, ok]).periph ∧
      decode 0x2100009307#40 = some (.wrraw 0x07#8 0x93#8) ∧ (0x07#8).toNat < 8 ∧ drawn.landed = some 0x77#8 ∧
      decode sd1 = some (.setdate 15#8 6#8 23#8 4#8) := by decide

/-- The invariant in a busy state that holds bytes and has a history, at the last micro-step of SETTIME. -/
theorem witness_StepKeepsInvariant :
    State.Inv { busyAt st1 4#3 0x80#8 [ok] [(0, 0x80#8), (7, 0x93#8)] with history := [.cmd st1] } ∧
      ∃ s', step { busyAt st1 4#3 0x80#8 [ok] [(0, 0x80#8), (7, 0x93#8)] with history := [.cmd st1] } = .next s' :=
  ⟨by decide, _, rfl⟩

theorem witness_InvariantNeverStops : State.Inv (busyAt st1 4#3 0x80#8 [ok] [(0, 0x80#8)]) := by decide

/-- SETTIME before its last write, as its history says, and the step from there. -/
def midSetTime : State :=
  { busyAt st1 4#3 0x80#8 [ok] [] with
    history := [.cmd st1, .rd 0x68#7 2#8 false 0#8, .wr 0x68#7 2#8 0x12#8 false, .wr 0x68#7 1#8 0x34#8 false,
      .rd 0x68#7 0#8 false 0x80#8] }

theorem witness_StepKeepsHistoryOfCommands :
    State.Traced midSetTime ∧ ∃ s', step midSetTime = .next s' ∧ s'.busy = false :=
  ⟨⟨0x80#8, by decide, .inr (fun _ _ => rfl)⟩, _, rfl, rfl⟩

/-- Histories that are none of commands: a response that no command called for; status 0 after a failed last write;
status 1 after a getter's failed read; a transaction after a failed merge read that is surfaced; a wrong value. -/
theorem test_history_broken :
    readHistory defaultParams [.rsp 0#2 none] = .broken ∧
      readHistory defaultParams [.cmd 0x2100009307#40, .wr 0x68#7 7#8 0x93#8 true, .rsp 0#2 none] = .broken ∧
      readHistory defaultParams [.cmd 0x1000000000#40, .rd 0x68#7 0#8 true 0xEE#8, .rsp 1#2 none] = .broken ∧
      readHistory defaultParams
        [.cmd 0x0100000000#40, .rd 0x68#7 2#8 true 0xEE#8, .wr 0x68#7 2#8 0x0E#8 false] = .broken ∧
      readHistory defaultParams [.cmd 0x2100009307#40, .wr 0x68#7 7#8 0x94#8 false] = .broken := by decide

/-- I10: with RMW_READ_ERR_ABORTS false that transaction does follow. -/
theorem test_history_ignored_failure :
    readHistory ⟨0#8, .flagOnly, false⟩
      [.cmd 0x0100000000#40, .rd 0x68#7 2#8 true 0xEE#8, .wr 0x68#7 2#8 0x0E#8 false,
        .wr 0x68#7 7#8 0x93#8 false, .rsp 0#2 none] = .closed := by decide

/-- The longest command, with the five answers it needs. -/
theorem witness_OfferedCommandCompletes :
    (idle [st1, sd1] [ok, bad, ok, ok, ok]).busy = false ∧
      (idle [st1, sd1] [ok, bad, ok, ok, ok]).offers = [st1, sd1] ∧
      Answered 5 (idle [st1, sd1] [ok, bad, ok, ok, ok]) :=
  ⟨rfl, rfl, [okAnswer, badAnswer, okAnswer, okAnswer, okAnswer], rfl, [], rfl⟩

/-- An idle block with work to do. -/
theorem witness_NoStateBetweenCommands : (idle [st1, sd1] [ok, .chip 0#8 1#8, ok, .reset drawn]).busy = false := rfl

theorem witness_GettersReadThePeripheral :
    readsOnly (.rdraw 0x08#8) = true ∧ (busyAt 0x2000000008#40 0#3 0#8 [ok] []).seqStep = 0#3 ∧
      (busyAt st1 0#3 0xFF#8 [ok] []).seqStep = 0#3 ∧
      (busyAt 0x2000000008#40 0#3 0#8 [ok] []).periph = (busyAt st1 0#3 0xFF#8 [ok] []).periph ∧
      (busyAt 0x2000000008#40 0#3 0#8 [ok] []).inputs = (busyAt st1 0#3 0xFF#8 [ok] []).inputs ∧
      (busyAt 0x2000000008#40 0#3 0#8 [ok] []).inputs = [.answer okAnswer] := by decide

end Sys2Proof.Tests
end

section
/-! SUPPORT. The parameters are no state of the block (spec/10_state.md R28): each kind of move keeps them, so every
step does. -/

namespace Sys2Proof.Machine

/-- What the idle block can do: stay as it is while nothing is offered (R34), or accept the first word (R30). -/
theorem idleStep_cases (s : State) :
    (s.offers = [] ∧ idleStep s = s) ∨
      ∃ w ws, s.offers = w :: ws ∧ idleStep s = accept w { s with offers := ws } := by
  unfold idleStep
  split
  · exact .inl ⟨‹_›, rfl⟩
  · exact .inr ⟨_, _, ‹_›, rfl⟩

@[simp] theorem idleStep_params (s : State) : (idleStep s).params = s.params := by
  obtain ⟨-, h⟩ | ⟨w, ws, -, h⟩ := idleStep_cases s
  · rw [h]
  · rw [h, accept_params]

/-- The micro-step of an operation leaves the parameters. -/
theorem exec_params {i : Instr} {s s' : State} (h : exec i s = .next s') : s'.params = s.params := by
  obtain ⟨u, -, rfl⟩ := exec_next h
  obtain ⟨-, -, -, -, -, hp, -⟩ := perform_frame u (decide (s.seqStep.toNat + 1 = stepCount i)) s
  exact hp

/-- The block's own step leaves the parameters, whether it runs, refuses or awaits a command. -/
theorem blockStep_params {s s' : State} (h : blockStep s = .next s') : s'.params = s.params := by
  obtain ⟨-, i, -, hexec⟩ | ⟨-, -, rfl⟩ | ⟨-, rfl⟩ := blockStep_cases h
  · exact exec_params hexec
  · exact raiseIllegalCommand_params s
  · exact idleStep_params s

/-- Settles O21: the chip, a reset and the block's own step each keep the parameters. -/
theorem parametersNeverChange : Obligations.ParametersNeverChange := by
  intro s s' h
  refine step_keeps (P := fun r => r.params = s.params) ?inputs ?chip ?reset ?block rfl h
  case inputs => exact fun _ _ hr => hr
  case chip => exact fun r reg v hr => (chipChanges_params reg v r).trans hr
  case reset => exact fun r d hr => (resetBlock_params d r).trans hr
  case block => exact fun _ _ hr hstep => (blockStep_params hstep).trans hr

end Sys2Proof.Machine
end

section
/-! SUPPORT. What moves the block: its turn, a silence, the chip, the reset pin (spec/10_state.md R30, R31, R34, R48,
R69), settled from the laws of `step`. -/

namespace Sys2Proof.Machine

open Sys2Proof.Claims

/-- The two words for changing an outcome's next state agree on the inputs. -/
theorem leaveInputs_eq_mapNext (rest : List Input) (o : Host.Outcome State Fault Refusal) :
    leaveInputs rest o = mapNext (fun s => { s with inputs := rest }) o := by
  cases o <;> rfl

/-- A busy block at a legal command runs that command's operation (R31). -/
theorem blockStep_exec {s : State} {i : Instr} (hb : s.busy = true) (hd : decode (currentWord s) = some i) :
    blockStep s = exec i s := by
  simp [blockStep, hb, hd]

/-- A busy block at a word without a meaning refuses it (R164). -/
theorem blockStep_illegal {s : State} (hb : s.busy = true) (hd : decode (currentWord s) = none) :
    blockStep s = .next (raiseIllegalCommand s) := by
  simp [blockStep, hb, hd]

/-- A block with BUSY 0 takes its idle step (R30, R34). -/
theorem blockStep_idle {s : State} (hb : s.busy = false) : blockStep s = .next (idleStep s) := by
  simp [blockStep, hb]

/-- With no input left it is the block's turn. -/
theorem blockMoves_of_nil {s : State} (h : s.inputs = []) : BlockMoves s := by
  simp [BlockMoves, h]

/-- A micro-step that needs an answer waits where none comes next (R32). -/
theorem perform_waits {u : MicroStep} (hu : u.request.isSome = true) (last : Bool) {s : State}
    (h : takeAnswer s = none) : perform u last s = s := by
  cases u with
  | read reg use => simp [perform, h]
  | write reg v => simp [perform, h]
  | internal d => simp [MicroStep.request] at hu

/-- Settles O14: on the block's turn the step is the block's, which runs the decoded operation. -/
theorem stepRunsDecodedInstruction : Obligations.StepRunsDecodedInstruction := by
  intro s i hm hb hd
  rw [step_blockMoves hm, blockStep_exec hb hd]

/-- Settles O16: the idle block's step with nothing offered is no step. -/
theorem idleBlockHasNoStep : Obligations.IdleBlockHasNoStep := by
  intro s hm hb ho
  rw [step_blockMoves hm, blockStep_idle hb]
  simp [idleStep, ho]

/-- Settles O17: the micro-step behind the request waits, because there is no answer to take. -/
theorem blockWaitsForAnswer : Obligations.BlockWaitsForAnswer := by
  intro s r hr hin
  obtain ⟨hb, i, u, hd, hu, hreq⟩ := outstanding_some hr
  have hsome : u.request.isSome = true := by rw [hreq]; rfl
  rw [step_blockMoves (blockMoves_of_nil hin), blockStep_at hb hd hu, perform_waits hsome _ (takeAnswer_nil hin)]

/-- Settles O20: the memory after the change is `storeReg`'s. -/
theorem chipChangesOneRegister : Obligations.ChipChangesOneRegister := by
  intro s reg v rest hin
  refine ⟨storeReg s.periph reg v, step_chip hin, fun hwf hreg => ?_, fun a ha => ?_⟩
  · exact read_storeReg_same hwf ((isNamed_iff reg).2 hreg) v
  · exact read_storeReg_other s.periph ha v

/-- Settles O45: the reset state has BUSY 0, no offer and no input. -/
theorem resetIsIdle : Obligations.ResetIsIdle :=
  ⟨rfl, rfl, rfl, rfl, idleBlockHasNoStep State.reset (blockMoves_of_nil rfl) rfl rfl⟩

/-- Settles O55: a silence is the block's turn with no inputs, and puts the later ones back. -/
theorem silenceLetsTheBlockMove : Obligations.SilenceLetsTheBlockMove := by
  intro s rest hin
  rw [step_quiet hin, leaveInputs_eq_mapNext, step_blockMoves (blockMoves_of_nil rfl)]

/-! ## Acceptance -/

/-- A micro-program works alike whatever the host offers meanwhile. -/
theorem exec_offers (i : Instr) (s : State) (ws : List CommandWord) :
    exec i { s with offers := ws } = mapNext (fun s' => { s' with offers := ws }) (exec i s) := by
  simp only [exec_eq_runMicro, runMicro]
  cases (microProgram i s.params s.t)[s.seqStep.toNat]? with
  | none => rfl
  | some u => exact congrArg Host.Outcome.next (perform_offers u _ s ws)

/-- A busy block's step does not look at the offers (R30). -/
theorem blockStep_offers {s : State} (hb : s.busy = true) (ws : List CommandWord) :
    blockStep { s with offers := ws } = mapNext (fun s' => { s' with offers := ws }) (blockStep s) := by
  have hb' : ({ s with offers := ws } : State).busy = true := hb
  cases hd : decode (currentWord s) with
  | none => rw [blockStep_illegal hb hd, blockStep_illegal hb' hd]; rfl
  | some i => rw [blockStep_exec hb hd, blockStep_exec hb' hd, exec_offers]

/-- Leaving inputs and replacing the offers touch different fields. -/
theorem leaveInputs_mapNext_offers (rest : List Input) (ws : List CommandWord)
    (o : Host.Outcome State Fault Refusal) :
    leaveInputs rest (mapNext (fun s => { s with offers := ws }) o) =
      mapNext (fun s => { s with offers := ws }) (leaveInputs rest o) := by
  cases o <;> rfl

/-- Who moves next: the chip, the reset pin, nobody outside, or the block with what answer there is. -/
theorem inputs_cases (s : State) :
    (∃ reg v rest, s.inputs = .chip reg v :: rest) ∨ (∃ d rest, s.inputs = .reset d :: rest) ∨
      (∃ rest, s.inputs = .quiet :: rest) ∨ BlockMoves s := by
  match hin : s.inputs with
  | .chip reg v :: rest => exact .inl ⟨reg, v, rest, rfl⟩
  | .reset d :: rest => exact .inr (.inl ⟨d, rest, rfl⟩)
  | .quiet :: rest => exact .inr (.inr (.inl ⟨rest, rfl⟩))
  | [] => exact .inr (.inr (.inr (by simp [BlockMoves, hin])))
  | .answer a :: rest => exact .inr (.inr (.inr (by simp [BlockMoves, hin, Input.isAnswer])))

/-- A step of a state with BUSY 1 does not look at the offers, whoever moves. -/
theorem step_offers {s : State} (hb : s.busy = true) (ws : List CommandWord) :
    step { s with offers := ws } = mapNext (fun s' => { s' with offers := ws }) (step s) := by
  obtain ⟨reg, v, rest, hin⟩ | ⟨d, rest, hin⟩ | ⟨rest, hin⟩ | hm := inputs_cases s
  · rw [step_chip hin, step_chip (s := { s with offers := ws }) hin]
    rfl
  · rw [step_reset hin, step_reset (s := { s with offers := ws }) hin]
    rfl
  · have hblock := blockStep_offers (s := { s with inputs := [] }) hb ws
    rw [step_quiet hin, step_quiet (s := { s with offers := ws }) hin, ← leaveInputs_mapNext_offers, ← hblock]
  · rw [step_blockMoves hm, step_blockMoves (s := { s with offers := ws }) hm, blockStep_offers hb]

/-- Settles O15: the idle block's step with a word offered is its acceptance; the busy block's leaves the offers. -/
theorem acceptanceLatchesCommand : Obligations.AcceptanceLatchesCommand := by
  refine ⟨fun s w ws hm hb ho => ?_, fun s ws hb => step_offers hb ws⟩
  rw [step_blockMoves hm, blockStep_idle hb, idleStep, ho]
  rfl

end Sys2Proof.Machine
end

section
/-! SUPPORT. What one micro-step can do to the registers and the history, said once, and the invariant of the state
(spec/10_state.md R22 to R33, R41; spec/60_exceptions.md R163, R164). -/

namespace Sys2Proof.Machine

open Sys2Proof.Claims

/-! ## A micro-step with its answer -/

/-- The state after the answer of a transaction, before R32 says how its micro-step ends: T, the peripheral and the
inputs have their new values, and the transaction is recorded. -/
def transacted (e : Event) (t : Byte) (m : Memory) (rest : List Input) (s : State) : State :=
  record e { s with t := t, periph := m, inputs := rest }

@[simp] theorem transacted_history (e : Event) (t : Byte) (m : Memory) (rest : List Input) (s : State) :
    (transacted e t m rest s).history = s.history ++ [e] := rfl

/-- Whether a micro-step's completion gives a result (R26, R33). -/
def MicroStep.givesResult : MicroStep → Bool
  | .read _ .merge => false
  | .read _ (.decoded _) => true
  | .read _ .raw => true
  | .write _ _ => false
  | .internal _ => true

/-- A micro-step gives a result exactly where its operation is one that surfaces no failure (R26, R161). -/
theorem givesResult_of_microProgram {i : Instr} {p : Params} {t : Byte} {k : Nat} {u : MicroStep}
    (h : (microProgram i p t)[k]? = some u) : u.givesResult = !surfacesFailure i := by
  have hall : (microProgram i p t).all (fun m => m.givesResult == !surfacesFailure i) = true := by
    cases i <;> rfl
  exact beq_iff_eq.1 (List.all_eq_true.1 hall u (List.mem_of_getElem? h))

/-- What a micro-step can do: wait, complete an internal step, or take an answer, then use the byte read or go on
after the write (R31, R32). -/
theorem perform_transacts (u : MicroStep) (last : Bool) (s : State) :
    (perform u last s = s ∧ takeAnswer s = none) ∨
      (∃ d, u = .internal d ∧ perform u last s = complete statusOk (some d) s) ∨
      (∃ reg use a b rest, u = .read reg use ∧ s.inputs = .answer a :: rest ∧ b = (memRead reg a s.periph).2 ∧
        perform u last s = afterRead use last a.err (transacted (.rd devAddr reg a.err b) b s.periph rest s)) ∨
      (∃ reg v a rest, u = .write reg v ∧ s.inputs = .answer a :: rest ∧
        perform u last s = (if a.err then raiseTransportError else advance last)
          (transacted (.wr devAddr reg v a.err) s.t (storeReg s.periph reg (if a.err then a.draw else v)) rest s)) := by
  obtain ⟨h, -, hnone⟩ | ⟨d, hu, h⟩ | ⟨reg, use, a, s1, hu, ht, h⟩ | ⟨reg, v, a, s1, hu, ht, h⟩ := perform_cases u last s
  · exact .inl ⟨h, hnone⟩
  · exact .inr (.inl ⟨d, hu, h⟩)
  · obtain ⟨rest, hin, rfl⟩ := takeAnswer_eq_some.1 ht
    exact .inr (.inr (.inl ⟨reg, use, a, _, rest, hu, hin, rfl, h.trans (answerRead_eq _ _ _ _ _)⟩))
  · obtain ⟨rest, hin, rfl⟩ := takeAnswer_eq_some.1 ht
    exact .inr (.inr (.inr ⟨reg, v, a, rest, hu, hin, h.trans (answerWrite_eq _ _ _ _ _)⟩))

/-! ## How a micro-step ends -/

/-- What becomes of BUSY, SEQ.step, STATUS, RES and the history in a micro-step `u`: the block waits, moves on to the
next micro-step with one transaction recorded, or completes with a response (R32, R33). -/
inductive MicroOutcome (u : MicroStep) (last : Bool) (s s' : State) : Prop where
  | waits (same : s' = s)
  | movesOn (e : Event) (notLast : last = false) (busy : s'.busy = s.busy) (index : s'.seqStep = s.seqStep + 1#3)
      (status : s'.status = s.status) (history : s'.history = s.history ++ [e])
      (noResponse : ∀ code data, e ≠ .rsp code data)
  | completes (events : List Event) (code : Status) (data : Option Byte) (idle : s'.busy = false)
      (status : s'.status = code) (legal : code ≠ 3#2) (result : s'.res = data.getD s.res)
      (history : s'.history = s.history ++ events ++ [.rsp code data]) (gives : data.isSome = u.givesResult)

/-- After a transaction of a command without a result, advance is one of the ends of a micro-step. -/
theorem MicroOutcome.of_advance {u : MicroStep} {e : Event} (hu : u.givesResult = false)
    (he : ∀ code data, e ≠ .rsp code data) (last : Bool) (t : Byte) (m : Memory) (rest : List Input) (s : State) :
    MicroOutcome u last s (advance last (transacted e t m rest s)) := by
  cases last
  · exact .movesOn e rfl rfl rfl rfl rfl he
  · exact .completes [e] statusOk none rfl rfl (by decide) rfl rfl hu.symm

/-- After a transaction of a command without a result, the abort is one of the ends of a micro-step. -/
theorem MicroOutcome.of_abort {u : MicroStep} (hu : u.givesResult = false) (e : Event) (last : Bool) (t : Byte)
    (m : Memory) (rest : List Input) (s : State) :
    MicroOutcome u last s (raiseTransportError (transacted e t m rest s)) :=
  .completes [e] statusTransportError none rfl rfl (by decide) rfl rfl hu.symm

/-- Every micro-step ends in one of the three ways. -/
theorem perform_outcome (u : MicroStep) (last : Bool) (s : State) : MicroOutcome u last s (perform u last s) := by
  obtain ⟨h, -⟩ | ⟨d, rfl, h⟩ | ⟨reg, use, a, b, rest, rfl, -, -, h⟩ | ⟨reg, v, a, rest, rfl, -, h⟩ :=
    perform_transacts u last s <;> rw [h]
  · exact .waits rfl
  · exact .completes [] statusOk (some d) rfl rfl (by decide) rfl (by simp) rfl
  · cases use with
    | merge =>
      simp only [afterRead]
      split
      · exact .of_abort (by rfl) _ _ _ _ _ _
      · exact .of_advance (by rfl) (by simp) _ _ _ _ _
    | decoded mask => exact .completes [_] statusOk (some _) rfl rfl (by decide) rfl rfl rfl
    | raw => exact .completes [_] statusOk (some _) rfl rfl (by decide) rfl rfl rfl
  · split
    · exact .of_abort (by rfl) _ _ _ _ _ _
    · exact .of_advance (by rfl) (by simp) _ _ _ _ _

/-! ## The peripheral -/

/-- A micro-step leaves the peripheral or gives one register a value. -/
theorem perform_periph (u : MicroStep) (last : Bool) (s : State) :
    (perform u last s).periph = s.periph ∨ ∃ reg v, (perform u last s).periph = storeReg s.periph reg v := by
  obtain ⟨h, -⟩ | ⟨d, -, h⟩ | ⟨reg, use, a, b, rest, -, -, -, h⟩ | ⟨reg, v, a, rest, -, -, h⟩ :=
    perform_transacts u last s <;> rw [h]
  · exact .inl rfl
  · exact .inl rfl
  · left
    obtain ⟨d, h, -⟩ | ⟨h, -⟩ | ⟨h, -⟩ := afterRead_cases use last a.err
      (transacted (.rd devAddr reg a.err b) b s.periph rest s) <;> rw [h]
    · rfl
    · rfl
    · cases last <;> rfl
  · refine .inr ⟨reg, if a.err then a.draw else v, ?_⟩
    cases a.err
    · cases last <;> rfl
    · rfl

/-- A micro-step keeps the peripheral's memory canonical. -/
theorem perform_wf (u : MicroStep) (last : Bool) {s : State} (h : Memory.wf s.periph) :
    Memory.wf (perform u last s).periph := by
  obtain hm | ⟨reg, v, hm⟩ := perform_periph u last s <;> rw [hm]
  · exact h
  · exact storeReg_wf h reg v

/-- A reset keeps the peripheral's memory canonical. -/
theorem abandonInFlight_wf (d : ResetDraw) {s : State} (h : Memory.wf s.periph) :
    Memory.wf (abandonInFlight d s) := by
  unfold abandonInFlight
  split
  · exact storeReg_wf h _ _
  · exact h

/-! ## SEQ.step stays inside the micro-program (R23) -/

/-- SEQ.step indexes a micro-step of the command in progress, if there is one. -/
def State.InRange (s : State) : Prop := s.busy = true → s.seqStep.toNat < currentStepCount s

theorem currentStepCount_of_decode {s : State} {i : Instr} (h : decode (currentWord s) = some i) :
    currentStepCount s = stepCount i := by
  simp [currentStepCount, h]

theorem currentStepCount_pos (s : State) : 0 < currentStepCount s := by
  unfold currentStepCount
  split
  · exact stepCount_pos _
  · exact Nat.one_pos

theorem currentStepCount_le_five (s : State) : currentStepCount s ≤ 5 := by
  unfold currentStepCount
  split
  · exact stepCount_le_five _
  · omega

@[simp] theorem currentStepCount_perform (u : MicroStep) (last : Bool) (s : State) :
    currentStepCount (perform u last s) = currentStepCount s := by
  simp [currentStepCount]

/-- Adding 1 to a SEQ.step inside a micro-program does not wrap (R23: at most five micro-steps). -/
theorem seqStep_succ_toNat {k : StepIndex} {i : Instr} (h : k.toNat < stepCount i) :
    (k + 1#3).toNat = k.toNat + 1 := by
  have := stepCount_le_five i
  rw [BitVec.toNat_add]
  exact Nat.mod_eq_of_lt (by simp; omega)

/-- A micro-step that moves on is not the last, so the next index is one of the same micro-program. -/
theorem perform_inRange {i : Instr} {s : State} (hd : decode (currentWord s) = some i)
    (hk : s.seqStep.toNat < stepCount i) (u : MicroStep) :
    State.InRange (perform u (decide (s.seqStep.toNat + 1 = stepCount i)) s) := by
  intro hb
  rw [currentStepCount_perform, currentStepCount_of_decode hd]
  obtain h | ⟨h, -⟩ | ⟨hlast, hstep, -⟩ :=
    perform_sequencer u (decide (s.seqStep.toNat + 1 = stepCount i)) s
  · simp [h] at hb
  · rwa [h]
  · have hne : s.seqStep.toNat + 1 ≠ stepCount i := of_decide_eq_false hlast
    rw [hstep, seqStep_succ_toNat hk]
    omega

/-- A legal command's micro-step is one of its micro-program. -/
theorem exec_next_index {i : Instr} {s s' : State} (h : exec i s = .next s') : s.seqStep.toNat < stepCount i := by
  obtain ⟨u, hu, -⟩ := exec_next h
  obtain ⟨hk, -⟩ := List.getElem?_eq_some_iff.1 hu
  simpa using hk

/-- The block's own step leaves SEQ.step inside the micro-program. -/
theorem blockStep_inRange {s s' : State} (hs : State.InRange s) (h : blockStep s = .next s') : State.InRange s' := by
  obtain ⟨-, i, hd, hexec⟩ | ⟨-, -, rfl⟩ | ⟨-, rfl⟩ := blockStep_cases h
  · obtain ⟨u, -, rfl⟩ := exec_next hexec
    exact perform_inRange hd (exec_next_index hexec) u
  · exact nofun
  · obtain ⟨-, h⟩ | ⟨w, ws, -, h⟩ := idleStep_cases s <;> rw [h]
    · exact hs
    · exact fun _ => currentStepCount_pos _

/-- Every step leaves SEQ.step inside the micro-program. -/
theorem step_inRange {s s' : State} (hs : State.InRange s) (h : step s = .next s') : State.InRange s' :=
  step_keeps (P := State.InRange) (fun _ _ h => h) (fun _ _ _ h => h) (fun _ _ _ => nofun)
    (fun _ _ => blockStep_inRange) hs h

/-- The block's own step in a command that stays in progress: the command is the same, SEQ.step stays or grows by 1. -/
theorem blockStep_sequencer {s s' : State} (h : blockStep s = .next s') (hb : s.busy = true) (hb' : s'.busy = true) :
    currentWord s' = currentWord s ∧ (s'.seqStep = s.seqStep ∨ s'.seqStep.toNat = s.seqStep.toNat + 1) := by
  obtain ⟨-, i, -, hexec⟩ | ⟨-, -, rfl⟩ | ⟨hidle, -⟩ := blockStep_cases h
  · have hk := exec_next_index hexec
    obtain ⟨u, -, rfl⟩ := exec_next hexec
    refine ⟨currentWord_perform _ _ _, ?_⟩
    obtain h | ⟨h, -⟩ | ⟨-, hstep, -⟩ := perform_sequencer u (decide (s.seqStep.toNat + 1 = stepCount i)) s
    · simp [h] at hb'
    · exact .inl (by rw [h])
    · exact .inr (by rw [hstep, seqStep_succ_toNat hk])
  · cases hb'
  · simp [hidle] at hb

/-- Settles O18: the chip touches neither, a reset ends the command, and the block's own step moves on by at most 1. -/
theorem sequencerNeverGoesBack : Obligations.SequencerNeverGoesBack := by
  intro s s' h hb hb' hk
  have hbound : s'.seqStep.toNat ≤ 4 := by
    have := step_inRange (fun _ => hk) h hb'
    have := currentStepCount_le_five s'
    omega
  suffices hmove : currentWord s' = currentWord s ∧
      (s'.seqStep = s.seqStep ∨ s'.seqStep.toNat = s.seqStep.toNat + 1) from ⟨hmove.1, hmove.2, hbound⟩
  obtain ⟨reg, v, rest, -, rfl⟩ | ⟨d, rest, -, rfl⟩ | ⟨rest, s1, -, h1, rfl⟩ | ⟨-, h1⟩ := step_cases h
  · exact ⟨rfl, .inl rfl⟩
  · cases hb'
  · have := blockStep_sequencer h1 hb hb'
    exact this
  · exact blockStep_sequencer h1 hb hb'

/-! ## The history grows (R29) -/

/-- The block's own step adds at most a transaction and a response, or a command. -/
theorem blockStep_history {s s' : State} (h : blockStep s = .next s') :
    ∃ events, s'.history = s.history ++ events ∧ events.length ≤ 2 ∧ ∀ e ∈ events, e.wellFormed = true := by
  obtain ⟨-, i, -, hexec⟩ | ⟨-, -, rfl⟩ | ⟨-, rfl⟩ := blockStep_cases h
  · obtain ⟨u, -, rfl⟩ := exec_next hexec
    exact perform_history u _ s
  · exact ⟨[.rsp statusIllegalCommand none], rfl, by simp, by decide⟩
  · obtain ⟨-, h⟩ | ⟨w, ws, -, h⟩ := idleStep_cases s <;> rw [h]
    · exact ⟨[], by simp, by simp, nofun⟩
    · exact ⟨[.cmd w], rfl, by simp, by simp [Event.wellFormed]⟩

/-- Settles O22: the chip and a reset add no event, and the block's own step at most two. -/
theorem historyOnlyGrows : Obligations.HistoryOnlyGrows := by
  intro s s' h
  have hnone : s.history = s.history ++ [] := (List.append_nil _).symm
  obtain ⟨reg, v, rest, -, rfl⟩ | ⟨d, rest, -, rfl⟩ | ⟨rest, s1, -, h1, rfl⟩ | ⟨-, h1⟩ := step_cases h
  · exact ⟨[], hnone, by simp, nofun⟩
  · exact ⟨[], hnone, by simp, nofun⟩
  · have := blockStep_history h1
    exact this
  · exact blockStep_history h1

/-! ## The invariant -/

/-- The block's own step keeps the peripheral's memory canonical. -/
theorem blockStep_wf {s s' : State} (hs : Memory.wf s.periph) (h : blockStep s = .next s') : Memory.wf s'.periph := by
  obtain ⟨-, i, -, hexec⟩ | ⟨-, -, rfl⟩ | ⟨-, rfl⟩ := blockStep_cases h
  · obtain ⟨u, -, rfl⟩ := exec_next hexec
    exact perform_wf u _ hs
  · exact hs
  · obtain ⟨-, h⟩ | ⟨w, ws, -, h⟩ := idleStep_cases s <;> rw [h] <;> exact hs

/-- The block's own step never makes STATUS 3 (R27). -/
theorem blockStep_status {s s' : State} (hs : s.status ≠ 3#2) (h : blockStep s = .next s') : s'.status ≠ 3#2 := by
  obtain ⟨-, i, -, hexec⟩ | ⟨-, -, rfl⟩ | ⟨-, rfl⟩ := blockStep_cases h
  · obtain ⟨u, -, rfl⟩ := exec_next hexec
    cases perform_outcome u (decide (s.seqStep.toNat + 1 = stepCount i)) s with
    | waits same => rwa [same]
    | movesOn e notLast busy index status => rwa [status]
    | completes events code data idle status legal => rwa [status]
  · exact (by decide : statusIllegalCommand ≠ 3#2)
  · obtain ⟨-, h⟩ | ⟨w, ws, -, h⟩ := idleStep_cases s <;> rw [h] <;> exact hs

/-- The block's own step keeps the invariant. -/
theorem blockStep_inv {s s' : State} (hs : State.Inv s) (h : blockStep s = .next s') : State.Inv s' := by
  obtain ⟨hwf, hstatus, hrange, hevents⟩ := hs
  obtain ⟨events, hhist, -, hnew⟩ := blockStep_history h
  refine ⟨blockStep_wf hwf h, blockStep_status hstatus h, blockStep_inRange hrange h, fun e he => ?_⟩
  rw [hhist] at he
  obtain he | he := List.mem_append.1 he
  · exact hevents e he
  · exact hnew e he

/-- Settles O47: the reset state is idle, with STATUS 0, an empty memory and an empty history. -/
theorem resetHasInvariant : Obligations.ResetHasInvariant :=
  ⟨nil_wf, by decide, nofun, nofun⟩

/-- Settles O48: the chip, a reset and the block's own step each keep the invariant. -/
theorem stepKeepsInvariant : Obligations.StepKeepsInvariant := by
  intro s s' hs h
  refine step_keeps (P := State.Inv) ?inputs ?chip ?reset ?block hs h
  case inputs => exact fun _ _ hr => hr
  case chip =>
    rintro r reg v ⟨hwf, hstatus, hrange, hevents⟩
    exact ⟨storeReg_wf hwf reg v, hstatus, hrange, hevents⟩
  case reset =>
    rintro r d ⟨hwf, -, -, hevents⟩
    exact ⟨abandonInFlight_wf d hwf, (by decide : statusOk ≠ 3#2), nofun, hevents⟩
  case block => exact fun _ _ => blockStep_inv

/-- A step stops nowhere but past a micro-program's end, so a state with SEQ.step in range is safe (R23, R31). -/
theorem safe_of_inRange {s : State} (hs : State.InRange s) : Safe s := by
  intro f hf
  obtain ⟨hb, i, hd, hk⟩ := step_fault hf
  have := hs hb
  rw [currentStepCount_of_decode hd] at this
  omega

/-- A safe step answers a next state, because no step is refused. -/
theorem step_next_of_safe {s : State} (hs : Safe s) : ∃ s', step s = .next s' := by
  cases h : step s with
  | next s' => exact ⟨s', rfl⟩
  | fault f => exact absurd h (hs f)
  | refused r => exact absurd h (step_ne_refused s r)

/-- Settles O49: the invariant keeps SEQ.step in range. -/
theorem invariantNeverStops : Obligations.InvariantNeverStops := by
  rintro s ⟨-, -, hrange, -⟩
  exact ⟨safe_of_inRange hrange, step_next_of_safe (safe_of_inRange hrange)⟩

end Sys2Proof.Machine
end

section
/-! SUPPORT. The byte a reader of the history takes for T, and the history as one of whole commands
(spec/10_state.md R25, R29, R32, R33; spec/60_exceptions.md R163 to R166). -/

namespace Sys2Proof.Machine

/-! ## A byte that stands for T -/

/-- The byte `t` does for T as far as the command in progress goes on: it is at its first micro-step, which does not
look at T, or its micro-program is the same with either byte. -/
def StandsForT (s : State) (t : Byte) : Prop :=
  s.seqStep = 0#3 ∨ ∀ i, decode (currentWord s) = some i → microProgram i s.params t = microProgram i s.params s.t

theorem standsForT_self (s : State) : StandsForT s s.t := .inr fun _ _ => rfl

/-- A byte that stands for T gives the next micro-step. -/
theorem StandsForT.microStep_eq {s : State} {t : Byte} (h : StandsForT s t) {i : Instr}
    (hd : decode (currentWord s) = some i) :
    (microProgram i s.params t)[s.seqStep.toNat]? = (microProgram i s.params s.t)[s.seqStep.toNat]? := by
  obtain h | h := h
  · rw [h]
    exact microProgram_head i s.params t s.t
  · rw [h i hd]

/-- Where the micro-step is no read, a byte that stands for T gives the whole micro-program: a command whose first
micro-step is no read never looks at T. -/
theorem StandsForT.microProgram_eq {s : State} {t : Byte} (h : StandsForT s t) {i : Instr}
    (hd : decode (currentWord s) = some i) {u : MicroStep}
    (hu : (microProgram i s.params s.t)[s.seqStep.toNat]? = some u) (hr : ∀ reg use, u ≠ .read reg use) :
    microProgram i s.params t = microProgram i s.params s.t := by
  obtain h | h := h
  · rw [h] at hu
    exact microProgram_without_read hu hr t s.t
  · exact h i hd

/-! ## Reading one event of an open command -/

/-- A read of the micro-step the open command stands at is read on by the use of its byte. -/
theorem reading_rd {p : Params} {w : CommandWord} {k : Nat} {t reg : Byte} {use : ReadUse}
    (h : wordMicroStep p w k t = some (.read reg use)) (err : Bool) (b : Byte) :
    Reading.next p (.opened w k t) (.rd devAddr reg err b) = .afterRead p w k use err b := by
  simp [Reading.next, Reading.transaction, h]

/-- A write of the micro-step the open command stands at is read on by its failure. -/
theorem reading_wr {p : Params} {w : CommandWord} {k : Nat} {t reg v : Byte}
    (h : wordMicroStep p w k t = some (.write reg v)) (err : Bool) :
    Reading.next p (.opened w k t) (.wr devAddr reg v err) =
      if err then .due statusTransportError none else .advance w k t := by
  simp [Reading.next, Reading.transaction, h]

/-- The response that is due closes the command. -/
theorem reading_rsp_due (p : Params) (code : Status) (data : Option Byte) :
    Reading.next p (.due code data) (.rsp code data) = .closed := by
  simp [Reading.next]

/-- The response of an internal micro-step, or of an illegal word, closes the command. -/
theorem reading_rsp_opened {p : Params} {w : CommandWord} {k : Nat} {t : Byte} {code : Status} {data : Option Byte}
    (h : wordResponse p w k t = some (code, data)) : Reading.next p (.opened w k t) (.rsp code data) = .closed := by
  simp [Reading.next, h]

/-- Past the last transaction of a legal word status 0 is due, past any other one the next micro-step is open. -/
theorem reading_advance {w : CommandWord} {i : Instr} (hd : decode w = some i) (k : Nat) (t : Byte) :
    Reading.advance w k t = if k + 1 = stepCount i then .due statusOk none else .opened w (k + 1) t := by
  simp [Reading.advance, hd]

/-! ## Where a traced state stands -/

theorem traced_busy {s : State} (hb : s.busy = true) :
    s.Traced ↔ ∃ t, readHistory s.params s.history = .opened (currentWord s) s.seqStep.toNat t ∧ StandsForT s t := by
  simp [State.Traced, hb, StandsForT]

theorem traced_idle {s : State} (hb : s.busy = false) :
    s.Traced ↔ readHistory s.params s.history = .closed ∨
      ∃ w k t, readHistory s.params s.history = .opened w k t := by
  simp [State.Traced, hb]

/-- In a traced state the reader stands between commands or inside one. -/
theorem State.Traced.reading {s : State} (h : s.Traced) :
    readHistory s.params s.history = .closed ∨ ∃ w k t, readHistory s.params s.history = .opened w k t := by
  cases hb : s.busy with
  | true =>
    obtain ⟨t, hr, -⟩ := (traced_busy hb).1 h
    exact .inr ⟨_, _, _, hr⟩
  | false => exact (traced_idle hb).1 h

/-- A completion whose response closes the command leaves a traced state. -/
theorem traced_complete {code : Status} {data : Option Byte} {s : State}
    (h : Reading.next s.params (readHistory s.params s.history) (.rsp code data) = .closed) :
    (complete code data s).Traced := by
  refine (traced_idle (complete_busy code data s)).2 (.inl ?_)
  rw [complete_params, complete_history, readHistory_append]
  exact h

/-- A completion with the response that is due leaves a traced state. -/
theorem traced_complete_due {code : Status} {data : Option Byte} {s : State}
    (h : readHistory s.params s.history = .due code data) : (complete code data s).Traced :=
  traced_complete (by rw [h]; exact reading_rsp_due s.params code data)

/-- Advancing after a transaction that the reader takes for one that does not abort leaves a traced state, if the
reader's byte gives the micro-program that T gives. -/
theorem traced_advance {s : State} {i : Instr} {t : Byte} (hb : s.busy = true)
    (hd : decode (currentWord s) = some i) (hk : s.seqStep.toNat < stepCount i)
    (hr : readHistory s.params s.history = .advance (currentWord s) s.seqStep.toNat t)
    (ht : microProgram i s.params t = microProgram i s.params s.t) :
    (advance (decide (s.seqStep.toNat + 1 = stepCount i)) s).Traced := by
  rw [reading_advance hd] at hr
  by_cases hlast : s.seqStep.toNat + 1 = stepCount i
  · rw [if_pos hlast] at hr
    rw [decide_eq_true hlast]
    exact traced_complete_due hr
  · rw [if_neg hlast] at hr
    rw [decide_eq_false hlast]
    refine (traced_busy (s := advance false s) hb).2 ⟨t, ?_, .inr fun j hj => ?_⟩
    · rw [advance_middle_seqStep, seqStep_succ_toNat hk]
      exact hr
    · obtain rfl : i = j := Option.some.inj (hd.symm.trans hj)
      exact ht

/-- A read micro-step with its answer, once the reader has taken in the transaction, leaves a traced state. -/
theorem traced_afterRead {s : State} {i : Instr} {use : ReadUse} {err : Bool} (hb : s.busy = true)
    (hd : decode (currentWord s) = some i) (hk : s.seqStep.toNat < stepCount i)
    (hr : readHistory s.params s.history = .afterRead s.params (currentWord s) s.seqStep.toNat use err s.t) :
    (afterRead use (decide (s.seqStep.toNat + 1 = stepCount i)) err s).Traced := by
  cases use with
  | merge =>
    by_cases habort : (err && s.params.rmwReadErrAborts) = true
    · simp only [Reading.afterRead, afterRead, if_pos habort] at hr ⊢
      exact traced_complete_due hr
    · simp only [Reading.afterRead, afterRead, if_neg habort] at hr ⊢
      exact traced_advance hb hd hk hr rfl
  | decoded mask => exact traced_complete_due hr
  | raw => exact traced_complete_due hr

/-! ## The block's own step -/

/-- The history of a state after a transaction, read one event further. -/
theorem readHistory_transacted (e : Event) (t : Byte) (m : Memory) (rest : List Input) (s : State) :
    readHistory s.params (transacted e t m rest s).history = Reading.next s.params (readHistory s.params s.history) e := by
  simp

/-- A micro-step of the command in progress keeps the history one of whole commands. -/
theorem perform_traced {s : State} {i : Instr} {u : MicroStep} (hs : s.Traced) (hb : s.busy = true)
    (hd : decode (currentWord s) = some i) (hu : (microProgram i s.params s.t)[s.seqStep.toNat]? = some u)
    (hk : s.seqStep.toNat < stepCount i) : (perform u (decide (s.seqStep.toNat + 1 = stepCount i)) s).Traced := by
  obtain ⟨t, hr, ht⟩ := (traced_busy hb).1 hs
  have hword : wordMicroStep s.params (currentWord s) s.seqStep.toNat t = some u := by
    rw [wordMicroStep_some hd, ht.microStep_eq hd, hu]
  obtain ⟨h, -⟩ | ⟨d, rfl, h⟩ | ⟨reg, use, a, b, rest, rfl, -, -, h⟩ | ⟨reg, v, a, rest, rfl, -, h⟩ :=
    perform_transacts u (decide (s.seqStep.toNat + 1 = stepCount i)) s <;> rw [h]
  · exact hs
  · refine traced_complete ?_
    rw [hr]
    exact reading_rsp_opened (by simp [wordResponse, hd, hword])
  · have hread := readHistory_transacted (.rd devAddr reg a.err b) b s.periph rest s
    rw [hr, reading_rd hword] at hread
    exact traced_afterRead (s := transacted _ b _ rest s) hb hd hk hread
  · have hread := readHistory_transacted (.wr devAddr reg v a.err) s.t
      (storeReg s.periph reg (if a.err then a.draw else v)) rest s
    rw [hr, reading_wr hword] at hread
    cases herr : a.err with
    | true =>
      rw [herr, if_pos rfl] at hread
      exact traced_complete_due hread
    | false =>
      rw [herr, if_neg Bool.false_ne_true] at hread
      exact traced_advance (s := transacted _ s.t _ rest s) hb hd hk hread (ht.microProgram_eq hd hu (by simp))

/-- Refusing an illegal command keeps the history one of whole commands (R164). -/
theorem raiseIllegalCommand_traced {s : State} (hs : s.Traced) (hb : s.busy = true)
    (hd : decode (currentWord s) = none) : (raiseIllegalCommand s).Traced := by
  obtain ⟨t, hr, -⟩ := (traced_busy hb).1 hs
  refine traced_complete ?_
  rw [hr]
  exact reading_rsp_opened (by simp [wordResponse, hd])

/-- Accepting a command opens it, whether none was open or a reset abandoned one (R30, R190). -/
theorem accept_traced {s : State} (hs : s.Traced) (w : CommandWord) : (accept w s).Traced := by
  refine (traced_busy (accept_busy w s)).2 ⟨0#8, ?_, .inl rfl⟩
  rw [accept_params, accept_history, readHistory_append, currentWord_accept, commandWord_fields]
  obtain hr | ⟨w', k, t, hr⟩ := hs.reading <;> rw [hr] <;> rfl

/-- The block's own step keeps the history one of whole commands. -/
theorem blockStep_traced {s s' : State} (hs : s.Traced) (h : blockStep s = .next s') : s'.Traced := by
  obtain ⟨hb, i, hd, hexec⟩ | ⟨hb, hd, rfl⟩ | ⟨-, rfl⟩ := blockStep_cases h
  · have hk := exec_next_index hexec
    obtain ⟨u, hu, rfl⟩ := exec_next hexec
    exact perform_traced hs hb hd hu hk
  · exact raiseIllegalCommand_traced hs hb hd
  · obtain ⟨-, h⟩ | ⟨w, ws, -, h⟩ := idleStep_cases s <;> rw [h]
    · exact hs
    · have : State.Traced { s with offers := ws } := hs
      exact accept_traced this w

/-- Settles O50: the reset state is idle with an empty history. -/
theorem resetIsTraced : Obligations.ResetIsTraced := (traced_idle rfl).2 (.inl rfl)

/-- Settles O51: the chip and a reset add no event, a reset leaving the command open that it abandons; the block's own
step goes on as the reader does. -/
theorem stepKeepsHistoryOfCommands : Obligations.StepKeepsHistoryOfCommands := by
  intro s s' hs h
  refine step_keeps (P := State.Traced) ?inputs ?chip ?reset ?block hs h
  case inputs => exact fun _ _ hr => hr
  case chip => exact fun _ _ _ hr => hr
  case reset => exact fun r d hr => (traced_idle (resetBlock_busy d r)).2 hr.reading
  case block => exact fun _ _ => blockStep_traced

end Sys2Proof.Machine
end

section
/-! SUPPORT. The response port in every step (spec/10_state.md R26, R33, R40; spec/30_encoding.md R88). -/

namespace Sys2Proof.Machine

open Sys2Proof.Claims

/-- Whether the command in progress has a result: it is legal and surfaces no failure (R26, R161). -/
def commandGivesResult (s : State) : Bool := (decode (currentWord s)).any fun i => !surfacesFailure i

theorem commandGivesResult_of_decode {s : State} {i : Instr} (h : decode (currentWord s) = some i) :
    commandGivesResult s = !surfacesFailure i := by
  simp [commandGivesResult, h]

theorem commandGivesResult_of_illegal {s : State} (h : decode (currentWord s) = none) :
    commandGivesResult s = false := by
  simp [commandGivesResult, h]

/-- The response of the command that the step from `s` to `s'` completes: STATUS, and RES where the command has a
result. -/
def dueResponse (s s' : State) : Status × Option Byte :=
  (s'.status, if commandGivesResult s then some s'.res else none)

/-- The data of a completion is RES, where there is any. -/
theorem data_eq_res {data : Option Byte} {r res : Byte} (h : r = data.getD res) :
    data = if data.isSome then some r else none := by
  cases data with
  | none => rfl
  | some d => rw [h]; rfl

/-- What a micro-step of a legal command in progress shows: the command's response with BUSY 0, or none with
BUSY 1. -/
theorem perform_response {s : State} {i : Instr} {u : MicroStep} (hb : s.busy = true)
    (hd : decode (currentWord s) = some i) (hu : (microProgram i s.params s.t)[s.seqStep.toNat]? = some u)
    (last : Bool) :
    ((perform u last s).busy = false ∧ response s (perform u last s) = some (dueResponse s (perform u last s))) ∨
      ((perform u last s).busy = true ∧ response s (perform u last s) = none) := by
  cases perform_outcome u last s with
  | waits same =>
    rw [same]
    exact .inr ⟨hb, response_silent rfl⟩
  | movesOn e notLast busy index status history noResponse =>
    exact .inr ⟨busy.trans hb, response_other (events := []) (by simpa using history) noResponse⟩
  | completes events code data idle status legal result history gives =>
    refine .inl ⟨idle, ?_⟩
    have hdata := data_eq_res result
    rw [gives, givesResult_of_microProgram hu, ← commandGivesResult_of_decode hd] at hdata
    rw [response_completed history, dueResponse, status, ← hdata]

/-- What the block's own step shows: a command's response exactly when it completes it. -/
theorem blockStep_response {s s' : State} (h : blockStep s = .next s') :
    (s.busy = true ∧ s'.busy = false ∧ response s s' = some (dueResponse s s')) ∨
      (¬ (s.busy = true ∧ s'.busy = false) ∧ response s s' = none) := by
  obtain ⟨hb, i, hd, hexec⟩ | ⟨hb, hd, rfl⟩ | ⟨hb, rfl⟩ := blockStep_cases h
  · obtain ⟨u, hu, rfl⟩ := exec_next hexec
    obtain ⟨hidle, hrsp⟩ | ⟨hbusy, hrsp⟩ := perform_response hb hd hu (decide (s.seqStep.toNat + 1 = stepCount i))
    · exact .inl ⟨hb, hidle, hrsp⟩
    · exact .inr ⟨by simp [hbusy], hrsp⟩
  · refine .inl ⟨hb, rfl, ?_⟩
    rw [dueResponse, commandGivesResult_of_illegal hd]
    exact response_completed (events := []) (by simp)
  · refine .inr ⟨by simp [hb], ?_⟩
    obtain ⟨-, h⟩ | ⟨w, ws, -, h⟩ := idleStep_cases s <;> rw [h]
    · exact response_silent rfl
    · exact response_other (events := []) (e := .cmd w) (by simp) (by simp)

/-- What a step shows: a command's response exactly when it completes it, which a reset does not. -/
theorem step_response {s s' : State} (h : step s = .next s') :
    (s.busy = true ∧ s'.busy = false ∧ (∀ d rest, s.inputs ≠ .reset d :: rest) ∧
        response s s' = some (dueResponse s s')) ∨
      (¬ (s.busy = true ∧ s'.busy = false ∧ ∀ d rest, s.inputs ≠ .reset d :: rest) ∧ response s s' = none) := by
  obtain ⟨reg, v, rest, -, rfl⟩ | ⟨d, rest, hin, rfl⟩ | ⟨rest, s1, hin, h1, rfl⟩ | ⟨hm, h1⟩ := step_cases h
  · exact .inr ⟨fun ⟨hb, hidle, _⟩ => Bool.false_ne_true (hidle.symm.trans hb), response_silent rfl⟩
  · exact .inr ⟨fun ⟨_, _, hno⟩ => hno d rest hin, response_silent rfl⟩
  · obtain ⟨hb, hidle, hrsp⟩ | ⟨hno, hrsp⟩ := blockStep_response h1
    · exact .inl ⟨hb, hidle, by simp [hin], hrsp⟩
    · exact .inr ⟨fun ⟨hb, hidle, _⟩ => hno ⟨hb, hidle⟩, hrsp⟩
  · obtain ⟨hb, hidle, hrsp⟩ | ⟨hno, hrsp⟩ := blockStep_response h1
    · refine .inl ⟨hb, hidle, fun d rest hin => ?_, hrsp⟩
      simp [BlockMoves, hin, Input.isAnswer] at hm
    · exact .inr ⟨fun ⟨hb, hidle, _⟩ => hno ⟨hb, hidle⟩, hrsp⟩

/-- Where a step gives a command's response, `rsp_data` is that response's. -/
theorem rspData_of_due {s s' : State} (h : response s s' = some (dueResponse s s')) :
    rspData s s' = if commandGivesResult s then some s'.res else none := by
  unfold rspData
  rw [h, dueResponse]
  cases commandGivesResult s <;> rfl

/-- Where a step gives no response, `rsp_data` has no value. -/
theorem rspData_of_none {s s' : State} (h : response s s' = none) : rspData s s' = none := by
  simp [rspData, h]

/-- Settles O58: a step that completes a command shows its response, STATUS with RES or nothing, and any other step
shows none. -/
theorem responsePortsShowCompletion : Obligations.ResponsePortsShowCompletion := by
  intro s s' h
  obtain ⟨hb, hidle, hno, hrsp⟩ | ⟨hnot, hrsp⟩ := step_response h
  · have hvalid : rspValid s s' = true := by simp [rspValid, hrsp]
    have hdata := rspData_of_due hrsp
    refine ⟨iff_of_true hvalid ⟨hb, hidle, hno⟩, fun _ => ⟨?_, fun i hd => ?_, fun hd => ?_⟩, by simp [hvalid]⟩
    · rw [hrsp, hdata]
      rfl
    · rw [hdata, commandGivesResult_of_decode hd]
      cases surfacesFailure i <;> rfl
    · rw [hdata, commandGivesResult_of_illegal hd]
      rfl
  · have hvalid : rspValid s s' = false := by simp [rspValid, hrsp]
    exact ⟨iff_of_false (by simp [hvalid]) hnot, by simp [hvalid], fun _ => rspData_of_none hrsp⟩

end Sys2Proof.Machine
end

section
/-! SUPPORT. Two blocks that only differ in what the outside cannot see: idle ones in any register, busy ones in STATUS,
RES and a T that the command in progress does not depend on (spec/10_state.md R20, R25, R33; spec/60_exceptions.md
R169). -/

namespace Sys2Proof.Machine

open Sys2Proof.Claims

/-! ## T, RES and STATUS replaced -/

/-- The registers that a command in progress may find with any content replaced: T, RES and STATUS. -/
def withScratch (s : State) (t res : Byte) (code : Status) : State := { s with t := t, res := res, status := code }

/-- The answer that comes next is the same. -/
theorem takeAnswer_withScratch (s : State) (t res : Byte) (code : Status) :
    takeAnswer (withScratch s t res code) = (takeAnswer s).map fun r => (r.1, withScratch r.2 t res code) := by
  unfold takeAnswer withScratch
  dsimp only
  split <;> rfl

/-- Completion writes STATUS, and RES where there is data. -/
theorem complete_withScratch (c : Status) (data : Option Byte) (s : State) (t res : Byte) (code : Status) :
    complete c data (withScratch s t res code) = withScratch (complete c data s) t (data.getD res) c := rfl

/-- Advance writes STATUS where it completes. -/
theorem advance_withScratch (last : Bool) (s : State) (t res : Byte) (code : Status) :
    advance last (withScratch s t res code) = withScratch (advance last s) t res (if last then statusOk else code) := by
  cases last <;> rfl

@[simp] theorem advance_t (last : Bool) (s : State) : (advance last s).t = s.t := by
  cases last <;> rfl

/-- Using the byte in T does not depend on RES and STATUS before, and leaves T. -/
theorem afterRead_withScratch (use : ReadUse) (last err : Bool) (s : State) (res : Byte) (code : Status) :
    ∃ res' code', afterRead use last err (withScratch s s.t res code) =
      withScratch (afterRead use last err s) (afterRead use last err s).t res' code' := by
  cases use with
  | merge =>
    have hparams : (withScratch s s.t res code).params = s.params := rfl
    simp only [afterRead, hparams]
    split
    · exact ⟨_, _, complete_withScratch statusTransportError none s s.t res code⟩
    · rw [advance_t]
      exact ⟨_, _, advance_withScratch last s s.t res code⟩
  | decoded mask => exact ⟨_, _, rfl⟩
  | raw => exact ⟨_, _, rfl⟩

/-- An answered write does not depend on T, RES and STATUS before, and leaves T. -/
theorem answerWrite_withScratch (reg v : Byte) (last : Bool) (a : Answer) (s : State) (t res : Byte) (code : Status) :
    (answerWrite reg v last a s).t = s.t ∧ ∃ code', answerWrite reg v last a (withScratch s t res code) =
      withScratch (answerWrite reg v last a s) t res code' := by
  simp only [answerWrite_eq]
  cases a.err with
  | true => exact ⟨rfl, statusTransportError, rfl⟩
  | false =>
    simp only [Bool.false_eq_true, if_false]
    exact ⟨advance_t _ _, _, advance_withScratch last (record _ { s with periph := _ }) t res code⟩

/-- What a micro-step makes of the difference in T, RES and STATUS: after a read T is equal, and where nothing is read
each block keeps its own. -/
theorem perform_withScratch (u : MicroStep) (last : Bool) (s : State) (t res : Byte) (code : Status) :
    ∃ t' res' code', perform u last (withScratch s t res code) = withScratch (perform u last s) t' res' code' ∧
      (t' = (perform u last s).t ∨
        t' = t ∧ (perform u last s).t = s.t ∧ (perform u last s = s ∨ ∀ reg use, u ≠ .read reg use)) := by
  obtain ⟨d, rfl⟩ | hu : (∃ d, u = .internal d) ∨ u.request.isSome = true := by
    cases u <;> simp [MicroStep.request]
  · exact ⟨t, d, statusOk, rfl, .inr ⟨rfl, rfl, .inr nofun⟩⟩
  cases hs : takeAnswer s with
  | none =>
    have hq : takeAnswer (withScratch s t res code) = none := by
      rw [takeAnswer_withScratch, hs]
      rfl
    rw [perform_waits hu last hs, perform_waits hu last hq]
    exact ⟨t, res, code, rfl, .inr ⟨rfl, rfl, .inl rfl⟩⟩
  | some r =>
    obtain ⟨rest, hin, -⟩ := takeAnswer_eq_some.1 hs
    have hq : (withScratch s t res code).inputs = .answer r.1 :: rest := hin
    cases u with
    | internal d => simp [MicroStep.request] at hu
    | read reg use =>
      rw [perform_read hin, perform_read hq]
      obtain ⟨res', code', h⟩ := afterRead_withScratch use last r.1.err
        (transacted (.rd devAddr reg r.1.err (memRead reg r.1 s.periph).2) (memRead reg r.1 s.periph).2 s.periph rest s)
        res code
      exact ⟨_, res', code', h, .inl rfl⟩
    | write reg v =>
      rw [perform_write hin, perform_write hq]
      obtain ⟨ht, code', h⟩ := answerWrite_withScratch reg v last r.1 { s with inputs := rest } t res code
      exact ⟨t, res, code', h, .inr ⟨rfl, ht, .inr (by simp)⟩⟩

/-! ## Two blocks alike -/

/-- Two states that the outside cannot tell apart, now or later: both idle, with any registers, or both at one
micro-step of one command, with a T that it does not depend on. -/
inductive Alike : State → State → Prop where
  | idle {s : State} (hb : s.busy = false) (op a0 a1 a2 a3 t res : Byte) (k : StepIndex) (code : Status) :
      Alike s (withRegisters s op a0 a1 a2 a3 t res k code)
  | running {s : State} (hb : s.busy = true) (hk : s.InRange) {t : Byte} (ht : StandsForT s t) (res : Byte)
      (code : Status) : Alike s (withScratch s t res code)

theorem alike_withScratch {s : State} {t : Byte} (hk : s.InRange) (ht : StandsForT s t) (res : Byte) (code : Status) :
    Alike s (withScratch s t res code) := by
  cases hb : s.busy with
  | true => exact .running hb hk ht res code
  | false => exact .idle hb s.seqOp s.a0 s.a1 s.a2 s.a3 t res s.seqStep code

theorem alike_self {s : State} (hk : s.InRange) : Alike s s :=
  alike_withScratch hk (standsForT_self s) s.res s.status

/-- The outside sees the history, the peripheral and BUSY. -/
theorem Alike.looksAlike {s q : State} (h : Alike s q) : LooksAlike (.next s) (.next q) := by
  cases h <;> exact ⟨rfl, rfl, rfl⟩

theorem Alike.inputs_eq {s q : State} (h : Alike s q) : q.inputs = s.inputs := by
  cases h <;> rfl

/-- The inputs do not enter into it. -/
theorem Alike.setInputs {s q : State} (h : Alike s q) (rest : List Input) :
    Alike { s with inputs := rest } { q with inputs := rest } := by
  cases h with
  | idle hb op a0 a1 a2 a3 t res k code => exact .idle (s := { s with inputs := rest }) hb op a0 a1 a2 a3 t res k code
  | running hb hk ht res code => exact .running (s := { s with inputs := rest }) hb hk ht res code

/-- A change by the chip is the same for both. -/
theorem alike_chipChanges {s q : State} (h : Alike s q) (reg v : Byte) :
    Alike (chipChanges reg v s) (chipChanges reg v q) := by
  cases h with
  | idle hb op a0 a1 a2 a3 t res k code => exact .idle (s := chipChanges reg v s) hb op a0 a1 a2 a3 t res k code
  | running hb hk ht res code => exact .running (s := chipChanges reg v s) hb hk ht res code

/-- Both have the same transaction outstanding (R48). -/
theorem Alike.outstanding_eq {s q : State} (h : Alike s q) : outstanding q = outstanding s := by
  cases h with
  | idle hb op a0 a1 a2 a3 t res k code => simp [outstanding, currentMicroStep, withRegisters, hb]
  | @running hb hk t ht res code =>
    have hword : currentWord (withScratch s t res code) = currentWord s := rfl
    have hstep : currentMicroStep (withScratch s t res code) = currentMicroStep s := by
      unfold currentMicroStep
      rw [hword]
      cases hd : decode (currentWord s) with
      | none => rfl
      | some i => exact congrArg (fun u => if s.busy then u else none) (ht.microStep_eq hd)
    rw [outstanding, hstep, outstanding]

/-- A reset makes them equal, because it draws every register (R35, R190). -/
theorem alike_resetBlock {s q : State} (h : Alike s q) (d : ResetDraw) :
    Alike (resetBlock d s) (resetBlock d q) := by
  have heq : resetBlock d q = resetBlock d s := by
    have ho := h.outstanding_eq
    cases h <;> simp only [resetBlock, abandonInFlight, ho] <;> rfl
  rw [heq]
  exact alike_self nofun

/-- A micro-step keeps two blocks alike. -/
theorem alike_perform {s : State} {i : Instr} {u : MicroStep} {t : Byte} (ht : StandsForT s t)
    (hd : decode (currentWord s) = some i) (hu : (microProgram i s.params s.t)[s.seqStep.toNat]? = some u)
    (hk : s.seqStep.toNat < stepCount i) (res : Byte) (code : Status) :
    Alike (perform u (decide (s.seqStep.toNat + 1 = stepCount i)) s)
      (perform u (decide (s.seqStep.toNat + 1 = stepCount i)) (withScratch s t res code)) := by
  have hrange := perform_inRange hd hk u
  obtain ⟨t', res', code', h, ht'⟩ :=
    perform_withScratch u (decide (s.seqStep.toNat + 1 = stepCount i)) s t res code
  rw [h]
  refine alike_withScratch hrange ?_ res' code'
  obtain rfl | ⟨rfl, hkept, hwaits | hnoread⟩ := ht'
  · exact standsForT_self _
  · rwa [hwaits]
  · obtain ⟨-, -, -, -, -, hparams, -⟩ := perform_frame u (decide (s.seqStep.toNat + 1 = stepCount i)) s
    refine .inr fun j hj => ?_
    rw [currentWord_perform] at hj
    obtain rfl : i = j := Option.some.inj (hd.symm.trans hj)
    rw [hparams, hkept]
    exact ht.microProgram_eq hd hu hnoread

/-- Two idle blocks alike stay alike: both accept the same word, and its first micro-step does not look at T. -/
theorem alike_idleStep {s : State} (hb : s.busy = false) (op a0 a1 a2 a3 t res : Byte) (k : StepIndex)
    (code : Status) : Alike (idleStep s) (idleStep (withRegisters s op a0 a1 a2 a3 t res k code)) := by
  unfold idleStep
  have ho : (withRegisters s op a0 a1 a2 a3 t res k code).offers = s.offers := rfl
  rw [ho]
  cases s.offers with
  | nil => exact .idle hb op a0 a1 a2 a3 t res k code
  | cons w ws =>
    exact .running (s := accept w { s with offers := ws }) rfl (fun _ => currentStepCount_pos _) (t := t) (.inl rfl)
      res code

/-- The block's own step keeps two blocks alike, and neither stops. -/
theorem alike_blockStep {s q : State} (h : Alike s q) :
    ∃ s' q', blockStep s = .next s' ∧ blockStep q = .next q' ∧ Alike s' q' := by
  cases h with
  | idle hb op a0 a1 a2 a3 t res k code =>
    exact ⟨_, _, blockStep_idle hb, blockStep_idle hb, alike_idleStep hb op a0 a1 a2 a3 t res k code⟩
  | @running hb hk t ht res code =>
    cases hd : decode (currentWord s) with
    | none =>
      exact ⟨_, _, blockStep_illegal hb hd, blockStep_illegal (s := withScratch s t res code) hb hd,
        alike_withScratch (s := raiseIllegalCommand s) nofun ht res statusIllegalCommand⟩
    | some i =>
      have hlt := hk hb
      rw [currentStepCount_of_decode hd] at hlt
      obtain ⟨u, hu⟩ : ∃ u, (microProgram i s.params s.t)[s.seqStep.toNat]? = some u :=
        ⟨_, List.getElem?_eq_getElem (by rwa [microProgram_length])⟩
      have huq := (ht.microStep_eq hd).trans hu
      exact ⟨_, _, blockStep_at hb hd hu, blockStep_at (s := withScratch s t res code) hb hd huq,
        alike_perform ht hd hu hlt res code⟩

/-- Every step keeps two blocks alike, and neither stops. -/
theorem alike_step {s q : State} (h : Alike s q) :
    ∃ s' q', step s = .next s' ∧ step q = .next q' ∧ Alike s' q' := by
  have hin := h.inputs_eq
  obtain ⟨reg, v, rest, hs⟩ | ⟨d, rest, hs⟩ | ⟨rest, hs⟩ | hm := inputs_cases s
  · exact ⟨_, _, step_chip hs, step_chip (hin.trans hs), alike_chipChanges (h.setInputs rest) reg v⟩
  · exact ⟨_, _, step_reset hs, step_reset (hin.trans hs), alike_resetBlock (h.setInputs rest) d⟩
  · obtain ⟨s', q', hs', hq', halike⟩ := alike_blockStep (h.setInputs [])
    rw [step_quiet hs, step_quiet (hin.trans hs), hs', hq']
    exact ⟨_, _, rfl, rfl, halike.setInputs rest⟩
  · have hmq : BlockMoves q := by rwa [BlockMoves, hin]
    rw [step_blockMoves hm, step_blockMoves hmq]
    exact alike_blockStep h

/-- Two blocks alike look alike after every number of steps. -/
theorem alike_runSteps {s q : State} (h : Alike s q) (n : Nat) : LooksAlike (runSteps n s) (runSteps n q) := by
  induction n generalizing s q with
  | zero => exact h.looksAlike
  | succ n ih =>
    obtain ⟨s', q', hs, hq, halike⟩ := alike_step h
    rw [runSteps_succ_of hs, runSteps_succ_of hq]
    exact ih halike

/-- Settles O53: idle blocks are alike whatever their registers hold, and every step keeps blocks alike. -/
theorem noStateBetweenCommands : Obligations.NoStateBetweenCommands := by
  intro s op a0 a1 a2 a3 t res k code hb n
  exact alike_runSteps (.idle hb op a0 a1 a2 a3 t res k code) n

end Sys2Proof.Machine
end

section
/-! SUPPORT. A transaction with its answer: what it records, how its micro-step ends, that answers carry a command to
its response, and that a reading operation's answer comes from the peripheral alone (spec/20_memory.md R51 to R55, R64,
R69; spec/10_state.md R30 to R33). -/

namespace Sys2Proof.Machine

open Sys2Proof.Claims

/-! ## How a micro-step ends once its transaction is recorded -/

/-- The two ways R32 and R163 leave after a transaction, `s` being the state that has it recorded: the command completes
with some response, or a micro-step that is not the last moves on. -/
inductive TransactionEnds (last : Bool) (s : State) : State → Prop where
  | completes (code : Status) (data : Option Byte) : TransactionEnds last s (complete code data s)
  | movesOn (notLast : last = false) : TransactionEnds last s (advance false s)

theorem advance_ends (last : Bool) (s : State) : TransactionEnds last s (advance last s) := by
  cases last
  · exact .movesOn rfl
  · exact .completes statusOk none

theorem afterRead_ends (use : ReadUse) (last err : Bool) (s : State) :
    TransactionEnds last s (afterRead use last err s) := by
  obtain ⟨d, h, -⟩ | ⟨h, -⟩ | ⟨h, -⟩ := afterRead_cases use last err s <;> rw [h]
  · exact .completes statusOk (some d)
  · exact .completes statusTransportError none
  · exact advance_ends last s

theorem afterWrite_ends (last err : Bool) (s : State) :
    TransactionEnds last s ((if err then raiseTransportError else advance last) s) := by
  cases err
  · exact advance_ends last s
  · exact .completes statusTransportError none

section
variable {last : Bool} {s s' : State}

theorem TransactionEnds.inputs_eq (h : TransactionEnds last s s') : s'.inputs = s.inputs := by
  cases h <;> rfl

theorem TransactionEnds.t_eq (h : TransactionEnds last s s') : s'.t = s.t := by
  cases h <;> rfl

theorem TransactionEnds.periph_eq (h : TransactionEnds last s s') : s'.periph = s.periph := by
  cases h <;> rfl

end

/-- The history afterwards: the transaction's event, then nothing or one response. -/
theorem TransactionEnds.history_eq {last : Bool} {e : Event} {t : Byte} {m : Memory} {rest : List Input} {s s' : State}
    (h : TransactionEnds last (transacted e t m rest s) s') :
    ∃ more, s'.history = s.history ++ e :: more ∧ (more = [] ∨ ∃ code data, more = [.rsp code data]) := by
  cases h with
  | completes code data => exact ⟨[.rsp code data], by simp, .inr ⟨code, data, rfl⟩⟩
  | movesOn notLast => exact ⟨[], rfl, .inl rfl⟩

/-- A read micro-step whose answer comes next: the byte goes to T, the peripheral is as it was (R53). -/
theorem perform_read_ends {s : State} {a : Answer} {rest : List Input} (hin : s.inputs = .answer a :: rest) (reg : Byte)
    (use : ReadUse) (last : Bool) :
    TransactionEnds last
      (transacted (.rd devAddr reg a.err (memRead reg a s.periph).2) (memRead reg a s.periph).2 s.periph rest s)
      (perform (.read reg use) last s) := by
  rw [perform_read hin, answerRead_eq]
  exact afterRead_ends use last a.err _

/-- A write micro-step whose answer comes next: its register takes the value, or the draw where the write fails (R54,
R55). -/
theorem perform_write_ends {s : State} {a : Answer} {rest : List Input} (hin : s.inputs = .answer a :: rest)
    (reg v : Byte) (last : Bool) :
    TransactionEnds last
      (transacted (.wr devAddr reg v a.err) s.t (storeReg s.periph reg (if a.err then a.draw else v)) rest s)
      (perform (.write reg v) last s) := by
  rw [perform_write hin, answerWrite_eq]
  exact afterWrite_ends last a.err _

/-- A micro-step whose answer comes next takes it, records its transaction and ends; only an internal one has none. -/
theorem perform_answered {s : State} {a : Answer} {rest : List Input} (hin : s.inputs = .answer a :: rest)
    (u : MicroStep) (last : Bool) :
    (∃ d, perform u last s = complete statusOk (some d) s) ∨
      ∃ e t m, TransactionEnds last (transacted e t m rest s) (perform u last s) := by
  cases u with
  | internal d => exact .inl ⟨d, rfl⟩
  | read reg use => exact .inr ⟨_, _, _, perform_read_ends hin reg use last⟩
  | write reg v => exact .inr ⟨_, _, _, perform_write_ends hin reg v last⟩

/-! ## The answer to the outstanding request -/

/-- With an answer next it is the block's turn. -/
theorem blockMoves_of_answer {s : State} {a : Answer} {rest : List Input} (hin : s.inputs = .answer a :: rest) :
    BlockMoves s := by
  simp [BlockMoves, hin, Input.isAnswer]

/-- A read is asked of the one device (R51) by a read micro-step. -/
theorem request_read {u : MicroStep} {dev : DeviceAddr} {reg : Byte} (h : u.request = some (.read dev reg)) :
    dev = devAddr ∧ ∃ use, u = .read reg use := by
  cases u with
  | read r use => cases h; exact ⟨rfl, use, rfl⟩
  | write r v => cases h
  | internal d => cases h

/-- A write is asked of the one device (R51) by a write micro-step of that register and value. -/
theorem request_write {u : MicroStep} {dev : DeviceAddr} {reg v : Byte} (h : u.request = some (.write dev reg v)) :
    dev = devAddr ∧ u = .write reg v := by
  cases u with
  | read r use => cases h
  | write r x => cases h; exact ⟨rfl, rfl⟩
  | internal d => cases h

/-- With its answer next, the step performs the micro-step behind the outstanding request. -/
theorem step_outstanding {s : State} {r : Request} {a : Answer} {rest : List Input}
    (hin : s.inputs = .answer a :: rest) (h : outstanding s = some r) :
    ∃ u last, u.request = some r ∧ step s = .next (perform u last s) := by
  obtain ⟨hb, i, u, hd, hu, hr⟩ := outstanding_some h
  exact ⟨u, _, hr, (step_blockMoves (blockMoves_of_answer hin)).trans (blockStep_at hb hd hu)⟩

/-- A successful read of a named register gives what it holds (R53, R63). -/
theorem memRead_held {reg : Byte} {a : Answer} (m : Memory) (he : a.err = false) (hreg : reg.toNat < 8) :
    (memRead reg a m).2 = Memory.read m reg.toNat := by
  simp [memRead, he, (isNamed_iff reg).2 hreg]

/-- A failed read gives the draw (R55). -/
theorem memRead_failed {a : Answer} (reg : Byte) (m : Memory) (he : a.err = true) : (memRead reg a m).2 = a.draw := by
  simp [memRead, he]

/-- Settles O19: the micro-step behind the request records its transaction with the answer, and its end adds at most a
response and leaves T and the peripheral as the transaction left them. -/
theorem answeredRequestIsRecorded : Obligations.AnsweredRequestIsRecorded := by
  intro s a rest dev reg v hin
  refine ⟨fun hout => ?read, fun hout => ?write⟩ <;> obtain ⟨u, last, hr, hstep⟩ := step_outstanding hin hout
  case read =>
    obtain ⟨rfl, use, rfl⟩ := request_read hr
    have hends := perform_read_ends hin reg use last
    obtain ⟨more, hhist, hmore⟩ := hends.history_eq
    exact ⟨rfl, _, _, more, hstep, hends.inputs_eq, hends.t_eq, hhist, hmore,
      memRead_held s.periph, memRead_failed reg s.periph⟩
  case write =>
    obtain ⟨rfl, rfl⟩ := request_write hr
    have hends := perform_write_ends hin reg v last
    obtain ⟨more, hhist, hmore⟩ := hends.history_eq
    refine ⟨rfl, _, more, hstep, hends.inputs_eq, hhist, hmore, fun hwf hreg => ?_⟩
    rw [hends.periph_eq]
    exact read_storeReg_same hwf ((isNamed_iff reg).2 hreg) _

/-! ## Answers carry a command to its response (R69) -/

/-- Where `n + 1` inputs are answers, one comes next and `n` are left. -/
theorem Answered.next {n : Nat} {s : State} (h : Answered (n + 1) s) :
    ∃ a rest, s.inputs = .answer a :: rest ∧ ∀ q : State, q.inputs = rest → Answered n q := by
  obtain ⟨answers, hlen, rest, hin⟩ := h
  obtain ⟨a, answers, rfl⟩ := List.exists_cons_of_length_eq_add_one hlen
  exact ⟨a, _, hin, fun q hq => ⟨answers, Nat.succ.inj hlen, rest, hq⟩⟩

/-- `s'` is idle with the response to the command that was in progress in `s`, at most `n` other events between, and the
offers stand (R30, R33). -/
def CompletedFrom (n : Nat) (s s' : State) : Prop :=
  s'.busy = false ∧ s'.offers = s.offers ∧
    ∃ events code data, s'.history = s.history ++ events ++ [.rsp code data] ∧ events.length ≤ n

theorem CompletedFrom.mono {m n : Nat} {s s' : State} (hle : m ≤ n) (h : CompletedFrom m s s') :
    CompletedFrom n s s' := by
  obtain ⟨hidle, hoffers, events, code, data, hhist, hlen⟩ := h
  exact ⟨hidle, hoffers, events, code, data, hhist, hlen.trans hle⟩

/-- One event and at most `n` more are at most `n + 1`. -/
theorem CompletedFrom.after_event {n : Nat} {s q s' : State} {e : Event} (hoffers : q.offers = s.offers)
    (hhist : q.history = s.history ++ [e]) (h : CompletedFrom n q s') : CompletedFrom (n + 1) s s' := by
  obtain ⟨hidle, hoff, events, code, data, hevents, hlen⟩ := h
  exact ⟨hidle, hoff.trans hoffers, e :: events, code, data, by simp [hevents, hhist], Nat.succ_le_succ hlen⟩

/-- The step of a command in progress whose answer comes next completes it, or records a transaction and moves to its
next micro-step with that answer taken. -/
theorem step_answered {s : State} {a : Answer} {rest : List Input} (hb : s.busy = true) (hk : s.InRange)
    (hin : s.inputs = .answer a :: rest) :
    ∃ s', step s = .next s' ∧ (CompletedFrom 1 s s' ∨
      s'.busy = true ∧ s'.offers = s.offers ∧ s'.inputs = rest ∧ currentStepCount s' = currentStepCount s ∧
        s'.seqStep.toNat = s.seqStep.toNat + 1 ∧ ∃ e, s'.history = s.history ++ [e]) := by
  rw [step_blockMoves (blockMoves_of_answer hin)]
  cases hd : decode (currentWord s) with
  | none =>
    exact ⟨_, blockStep_illegal hb hd, .inl ⟨rfl, rfl, [], statusIllegalCommand, none, by simp, by simp⟩⟩
  | some i =>
    have hlt := hk hb
    rw [currentStepCount_of_decode hd] at hlt
    obtain ⟨u, hu⟩ : ∃ u, (microProgram i s.params s.t)[s.seqStep.toNat]? = some u :=
      ⟨_, List.getElem?_eq_getElem (by rwa [microProgram_length])⟩
    refine ⟨_, blockStep_at hb hd hu, ?_⟩
    obtain ⟨d, h⟩ | ⟨e, t, m, h⟩ := perform_answered hin u (decide (s.seqStep.toNat + 1 = stepCount i))
    · rw [h]
      exact .inl ⟨rfl, rfl, [], statusOk, some d, by simp, by simp⟩
    · generalize perform u _ s = s' at h
      cases h with
      | completes code data => exact .inl ⟨rfl, rfl, [e], code, data, rfl, Nat.le_refl 1⟩
      | movesOn notLast => exact .inr ⟨hb, rfl, rfl, rfl, seqStep_succ_toNat hlt, e, rfl⟩

/-- A command in progress with as many answers next as it has micro-steps left completes within that many steps. -/
theorem completes_of_answered {n : Nat} {s : State} (hb : s.busy = true) (hk : s.InRange)
    (hleft : currentStepCount s ≤ s.seqStep.toNat + n) (hans : Answered n s) :
    ∃ k s', k ≤ n ∧ runSteps k s = .next s' ∧ CompletedFrom n s s' := by
  induction n generalizing s with
  | zero => exact absurd (hk hb) (Nat.not_lt.2 hleft)
  | succ n ih =>
    obtain ⟨a, rest, hin, hrest⟩ := hans.next
    obtain ⟨q, hstep, hdone | ⟨hbq, hoffers, hinq, hcount, hindex, e, hhist⟩⟩ := step_answered hb hk hin
    · exact ⟨1, q, Nat.le_add_left 1 n, runSteps_succ_of hstep 0, hdone.mono (Nat.le_add_left 1 n)⟩
    · obtain ⟨k, s', hkn, hrun, hdone⟩ := ih hbq (step_inRange hk hstep) (by omega) (hrest q hinq)
      exact ⟨k + 1, s', by omega, (runSteps_succ_of hstep k).trans hrun, hdone.after_event hoffers hhist⟩

/-- Settles O52: the first step accepts the word, and five answers are enough for the micro-steps of any command. -/
theorem offeredCommandCompletes : Obligations.OfferedCommandCompletes := by
  intro s w ws hb ho hans
  obtain ⟨a, rest, hin, -⟩ := hans.next
  obtain ⟨haccept, -⟩ := acceptanceLatchesCommand
  have hstep := haccept s w ws (blockMoves_of_answer hin) hb ho
  obtain ⟨k, s', hk, hrun, hidle, hoffers, events, code, data, hhist, hlen⟩ :=
    completes_of_answered (n := 5) (s := accept w { s with offers := ws }) rfl (fun _ => currentStepCount_pos _)
      ((currentStepCount_le_five _).trans (Nat.le_add_left 5 _)) hans
  exact ⟨k + 1, s', by omega, (runSteps_succ_of hstep k).trans hrun, hidle, hoffers, events, code, data,
    by simpa using hhist, hlen⟩

/-! ## A reading operation answers from the peripheral (R64) -/

/-- A read that is not merged completes its command, failed or not, with a result that is a function of the byte in T
(R120, R135, R165). -/
theorem afterRead_result {use : ReadUse} (hu : use ≠ .merge) :
    ∃ result : Byte → Byte, ∀ last err s, afterRead use last err s = complete statusOk (some (result s.t)) s := by
  cases use with
  | merge => exact absurd rfl hu
  | decoded mask => exact ⟨fun b => b2d (b &&& mask), fun _ _ _ => rfl⟩
  | raw => exact ⟨fun b => b, fun _ _ _ => rfl⟩

/-- A getter and RDRAW are one read, the same one whatever the parameters and T are. -/
theorem microProgram_readsOnly {i : Instr} (h : readsOnly i = true) :
    ∃ reg use, use ≠ .merge ∧ ∀ p t, microProgram i p t = [.read reg use] := by
  cases i with
  | init | setdate | settime | wrraw | d2b | b2d => cases h
  | getsec => exact ⟨regSec, .decoded secMask, nofun, fun _ _ => rfl⟩
  | getmin => exact ⟨regMin, .decoded noMask, nofun, fun _ _ => rfl⟩
  | gethour => exact ⟨regHour, .decoded hourMask, nofun, fun _ _ => rfl⟩
  | getwday => exact ⟨regWday, .decoded noMask, nofun, fun _ _ => rfl⟩
  | getday => exact ⟨regDay, .decoded noMask, nofun, fun _ _ => rfl⟩
  | getmon => exact ⟨regMon, .decoded noMask, nofun, fun _ _ => rfl⟩
  | getyear => exact ⟨regYear, .decoded noMask, nofun, fun _ _ => rfl⟩
  | rdraw addr => exact ⟨addr, .raw, nofun, fun _ _ => rfl⟩

/-- A reading operation completes with a result that is a function of the byte its read of the peripheral gives. -/
theorem exec_readsOnly {i : Instr} (h : readsOnly i = true) :
    ∃ (reg : Byte) (result : Byte → Byte), ∀ (s : State) (a : Answer) (rest : List Input),
      s.seqStep = 0#3 → s.inputs = .answer a :: rest →
        exec i s = .next (complete statusOk (some (result (memRead reg a s.periph).2))
          (transacted (.rd devAddr reg a.err (memRead reg a s.periph).2) (memRead reg a s.periph).2 s.periph rest s)) := by
  obtain ⟨reg, use, huse, hprog⟩ := microProgram_readsOnly h
  obtain ⟨result, hresult⟩ := afterRead_result huse
  refine ⟨reg, result, fun s a rest hk hin => ?_⟩
  have hat : [MicroStep.read reg use][s.seqStep.toNat]? = some (.read reg use) := by simp [hk]
  rw [exec_eq_runMicro, hprog, runMicro_at hat, perform_read hin, answerRead_eq, hresult]
  rfl

/-- Settles O54: the answer of a reading operation is a function of the peripheral and the answer taken. -/
theorem gettersReadThePeripheral : Obligations.GettersReadThePeripheral := by
  rintro i s q hi hs hq hperiph hinputs ⟨a, rest, hin⟩
  obtain ⟨reg, result, hexec⟩ := exec_readsOnly hi
  have hexecq := hexec q a rest hq (hinputs.symm.trans hin)
  rw [← hperiph] at hexecq
  exact ⟨_, _, hexec s a rest hs hin, hexecq, rfl, rfl, rfl, by simp⟩

end Sys2Proof.Machine
end

section
/-! SUPPORT. Decoding as an equivalence (spec/30_encoding.md R80 to R85): a word decodes to an operation exactly when it
has that operation's opcode and that operation's operands at the front of its fields. -/

namespace Sys2Proof

/-! ## The operand fields of a word -/

/-- The operand fields of a word in the order of R82, a0 first. -/
def CommandWord.operandFields (w : CommandWord) : List Byte := [w.a0, w.a1, w.a2, w.a3]

/-- Where a list is the front of another, its places hold the other's elements, and past it stands the default. -/
theorem getD_of_prefix {l m : List Byte} (h : l <+: m) (k : Nat) (d : Byte) :
    l.getD k d = if k < l.length then m.getD k d else d := by
  obtain ⟨rest, rfl⟩ := h
  split
  · exact (List.getD_append l rest d k ‹_›).symm
  · exact List.getD_eq_default l d (Nat.le_of_not_lt ‹_›)

/-- Operands at the front of one word's fields are at the front of any other's that agrees with it in the used ones. -/
theorem operands_prefix_congr {l : List Byte} {w v : CommandWord} (h : l <+: w.operandFields)
    (h0 : 0 < l.length → v.a0 = w.a0) (h1 : 1 < l.length → v.a1 = w.a1) (h2 : 2 < l.length → v.a2 = w.a2)
    (h3 : 3 < l.length → v.a3 = w.a3) : l <+: v.operandFields := by
  rw [List.prefix_iff_getElem?] at h ⊢
  intro k hk
  rw [← h k hk]
  match k with
  | 0 => exact congrArg some (h0 hk)
  | 1 => exact congrArg some (h1 hk)
  | 2 => exact congrArg some (h2 hk)
  | 3 => exact congrArg some (h3 hk)
  | _ + 4 => rfl

/-! ## The encoder's fields -/

@[simp] theorem encode_op (i : Instr) : (encode i).op = i.opcode := commandWord_op _ _ _ _ _
@[simp] theorem encode_a0 (i : Instr) : (encode i).a0 = i.operands.getD 0 0#8 := commandWord_a0 _ _ _ _ _
@[simp] theorem encode_a1 (i : Instr) : (encode i).a1 = i.operands.getD 1 0#8 := commandWord_a1 _ _ _ _ _
@[simp] theorem encode_a2 (i : Instr) : (encode i).a2 = i.operands.getD 2 0#8 := commandWord_a2 _ _ _ _ _
@[simp] theorem encode_a3 (i : Instr) : (encode i).a3 = i.operands.getD 3 0#8 := commandWord_a3 _ _ _ _ _

/-- The encoder puts the operands at the front of the fields (R82). -/
theorem operands_prefix_encode (i : Instr) : i.operands <+: (encode i).operandFields := by
  simp only [CommandWord.operandFields, encode_a0, encode_a1, encode_a2, encode_a3]
  cases i <;> exact ⟨_, rfl⟩

/-! ## The decoder -/

/-- Each row of the table builds an operation that has the row's opcode and the row's operands (R82, R83). -/
theorem opcodeTable_builds :
    ∀ row ∈ opcodeTable, ∀ a0 a1 a2 a3 : Byte,
      (row.build a0 a1 a2 a3).opcode = row.op ∧ (row.build a0 a1 a2 a3).operands <+: [a0, a1, a2, a3] := by
  simp [opcodeTable, Instr.opcode, Instr.operands]

/-- The row of an operation's opcode builds the operation from fields that begin with its operands. -/
theorem opcodeTable_find {i : Instr} {a0 a1 a2 a3 : Byte} (h : i.operands <+: [a0, a1, a2, a3]) :
    (opcodeTable.find? (fun row => row.op == i.opcode)).map (fun row => row.build a0 a1 a2 a3) = some i := by
  obtain ⟨rest, hrest⟩ := h
  cases i <;> cases hrest <;> rfl

/-- A word decodes to `i` exactly when it has the opcode of `i` and the operands of `i` at the front of its fields. -/
theorem decode_eq_some_iff {w : CommandWord} {i : Instr} :
    decode w = some i ↔ i.opcode = w.op ∧ i.operands <+: w.operandFields := by
  constructor
  · intro h
    obtain ⟨row, hrow, hop, rfl⟩ := decode_eq_some h
    obtain ⟨hopcode, hoperands⟩ := opcodeTable_builds row hrow w.a0 w.a1 w.a2 w.a3
    exact ⟨hopcode.trans hop, hoperands⟩
  · rintro ⟨hop, hoperands⟩
    rw [decode_eq, ← hop]
    exact opcodeTable_find hoperands

/-- A word has a meaning exactly when its opcode has a row, whatever its operands are (R81). -/
theorem isSome_decode (w : CommandWord) : (decode w).isSome = opcodeTable.any (fun row => row.op == w.op) := by
  rw [decode_eq, Option.isSome_map, List.isSome_find?]

/-- No opcode has two rows (R81). -/
theorem rows_length_le_one (op : Byte) : (opcodeTable.filter (fun row => row.op == op)).length ≤ 1 := by
  have hnodup : (opcodeTable.map OpcodeRow.op).Nodup := List.pairwise_map.2 opcodeTable_distinct
  have hcount := List.nodup_iff_count_le_one.1 hnodup op
  rwa [List.count, List.countP_map, List.countP_eq_length_filter] at hcount

/-- The mask of R81 keeps the opcode and nothing else. -/
theorem and_opcodeMask (w : CommandWord) : w &&& 0xFF00000000#40 = w.op.zeroExtend 40 <<< 32 := by
  have hmask : 0xFF00000000#40 = (BitVec.allOnes 8).setWidth 40 <<< 32 := by decide
  rw [hmask]
  apply BitVec.eq_of_getLsbD_eq
  intro k hk
  simp only [CommandWord.op, BitVec.getLsbD_and, BitVec.getLsbD_shiftLeft, BitVec.getLsbD_setWidth,
    BitVec.getLsbD_allOnes, BitVec.getLsbD_extractLsb']
  by_cases hlow : k < 32
  · simp [hlow]
  · have hplace : 32 + (k - 32) = k := by omega
    rw [hplace]
    ac_rfl

/-! ## The obligations -/

/-- Settles O2: the encoder's word has the opcode and the operands the decoder looks for, and a decoded operation's
operands are the word's used fields. -/
theorem decodeEncodeAgree : Obligations.DecodeEncodeAgree := by
  refine ⟨fun i => decode_eq_some_iff.2 ⟨(encode_op i).symm, operands_prefix_encode i⟩, fun w i h => ?_⟩
  obtain ⟨hop, hoperands⟩ := decode_eq_some_iff.1 h
  have hfield (k : Nat) := getD_of_prefix hoperands k 0#8
  rw [encode_op, encode_a0, encode_a1, encode_a2, encode_a3]
  exact ⟨hop, hfield 0, hfield 1, hfield 2, hfield 3⟩

/-- Settles O3: the opcode decides whether a row is found, and no opcode has two rows. -/
theorem opcodeAloneSelects : Obligations.OpcodeAloneSelects := by
  refine ⟨fun w i h => ?_, fun w v h => ?_, fun w => ?_⟩
  · obtain ⟨hop, -⟩ := decode_eq_some_iff.1 h
    exact ⟨hop, by rw [hop, and_opcodeMask]⟩
  · rw [isSome_decode, isSome_decode, h]
  · have hle := rows_length_le_one w.op
    cases hd : decode w with
    | none => exact .inr ⟨by simpa using decode_eq_none.1 hd, rfl⟩
    | some i =>
      obtain ⟨row, hrow, hop, -⟩ := decode_eq_some hd
      have hmem : row ∈ opcodeTable.filter (fun row => row.op == w.op) :=
        List.mem_filter.2 ⟨hrow, by simpa using hop⟩
      exact .inl ⟨Nat.le_antisymm hle (List.length_pos_of_mem hmem), rfl⟩

/-- Settles O1: each word is decoded as R83 has it. -/
theorem specWordsDecode : Obligations.SpecWordsDecode := by
  unfold Obligations.SpecWordsDecode
  decide

/-- The bytes of a word, read left to right in base 256, are its value (R89). -/
theorem foldl_wordBytes (w : CommandWord) : (wordBytes w).foldl (fun n b => n * 256 + b.toNat) 0 = w.toNat := by
  have hlt := w.isLt
  simp only [wordBytes, List.foldl, CommandWord.op, CommandWord.a3, CommandWord.a2, CommandWord.a1, CommandWord.a0,
    BitVec.extractLsb'_toNat, Nat.shiftRight_eq_div_pow]
  omega

/-- Read back from its bytes a word decodes as itself, and the bytes after its five are left (R89). -/
theorem decodeBytes_wordBytes_append (w : CommandWord) (rest : List Byte) :
    decodeBytes (wordBytes w ++ rest) = (decode w).map (fun i => (i, rest)) := by
  have hfields : decodeBytes (wordBytes w ++ rest) =
      (decode (commandWord w.op w.a3 w.a2 w.a1 w.a0)).map (fun i => (i, rest)) := rfl
  rw [hfields, commandWord_fields]

/-- Settles O6: the five bytes are the word's fields, from which the decoder puts the word together again. -/
theorem commandBytesMostSignificantFirst : Obligations.CommandBytesMostSignificantFirst :=
  ⟨fun w => ⟨rfl, foldl_wordBytes w, decodeBytes_wordBytes_append w⟩, by decide, by decide⟩

end Sys2Proof
end

section
/-! SUPPORT. What becomes of illegal words and of unused operand latches once the block has them
(spec/30_encoding.md R84, R85; spec/10_state.md R30, R31). -/

namespace Sys2Proof.Machine

open Sys2Proof.Claims

/-! ## Illegal opcodes -/

/-- The opcodes without a row are the five ranges of R85. -/
theorem decode_eq_none_iff_ranges (w : CommandWord) :
    decode w = none ↔
      (w.op = 0x00#8 ∨ (0x04#8 ≤ w.op ∧ w.op ≤ 0x0F#8) ∨ (0x17#8 ≤ w.op ∧ w.op ≤ 0x1F#8) ∨
        (0x22#8 ≤ w.op ∧ w.op ≤ 0x2F#8) ∨ (0x32#8 ≤ w.op ∧ w.op ≤ 0xFF#8)) := by
  have hlt := w.op.isLt
  simp only [decode_eq_none, opcodeTable, List.forall_mem_cons, List.not_mem_nil, false_imp_iff, implies_true, and_true,
    ne_eq, ← BitVec.toNat_inj, BitVec.le_def, BitVec.toNat_ofNat]
  omega

/-- The fourteen opcodes leave 242 of the 256 (R85). -/
theorem illegal_opcodes_length :
    ((List.range 256).filter (fun n => (decode (commandWord (BitVec.ofNat 8 n) 0#8 0#8 0#8 0#8)).isNone)).length
      = 242 := by
  have hnone (n : Nat) : (decode (commandWord (BitVec.ofNat 8 n) 0#8 0#8 0#8 0#8)).isNone =
      !opcodeTable.any (fun row => row.op == BitVec.ofNat 8 n) := by
    rw [← Option.not_isSome, isSome_decode, commandWord_op]
  simp only [hnone]
  decide +kernel

/-- The word just accepted is the command in progress (R22, R30). -/
theorem currentWord_accepted (w : CommandWord) (s : State) : currentWord (accept w s) = w :=
  (currentWord_accept w s).trans (commandWord_fields w)

/-- On the block's turn a busy block refuses a word without a meaning (R164). -/
theorem step_illegal {s : State} (hm : BlockMoves s) (hb : s.busy = true) (hd : decode (currentWord s) = none) :
    step s = .next (raiseIllegalCommand s) := by
  rw [step_blockMoves hm, blockStep_illegal hb hd]

/-- Settles O4: the step after an illegal word's acceptance is its refusal. -/
theorem illegalOpcodes : Obligations.IllegalOpcodes := by
  refine ⟨decode_eq_none_iff_ranges, illegal_opcodes_length, fun s w ws hd hm hb ho => ?_⟩
  obtain ⟨haccept, -⟩ := acceptanceLatchesCommand
  have hword : decode (currentWord (accept w { s with offers := ws })) = none := by rwa [currentWord_accepted]
  have hrefuse := step_illegal (s := accept w { s with offers := ws }) hm rfl hword
  exact ⟨_, _, haccept s w ws hm hb ho, rfl, hrefuse, rfl, rfl, by simp [statusIllegalCommand], rfl, rfl⟩

/-! ## Unused operand latches -/

/-- The operand latches with other bytes in them. -/
def withLatches (b0 b1 b2 b3 : Byte) (s : State) : State := { s with a0 := b0, a1 := b1, a2 := b2, a3 := b3 }

section
variable {b0 b1 b2 b3 : Byte} (last : Bool) (s : State)

/-- The answer that comes next is the same. -/
theorem takeAnswer_withLatches : takeAnswer (withLatches b0 b1 b2 b3 s) =
    (takeAnswer s).map fun r => (r.1, withLatches b0 b1 b2 b3 r.2) := by
  unfold takeAnswer withLatches
  dsimp only
  split <;> rfl

/-- Advance and completion leave the latches. -/
theorem advance_withLatches :
    advance last (withLatches b0 b1 b2 b3 s) = withLatches b0 b1 b2 b3 (advance last s) := by
  cases last <;> rfl

/-- Using the byte in T does not look at the latches. -/
theorem afterRead_withLatches (use : ReadUse) (err : Bool) :
    afterRead use last err (withLatches b0 b1 b2 b3 s) = withLatches b0 b1 b2 b3 (afterRead use last err s) := by
  cases use with
  | merge =>
    have hparams : (withLatches b0 b1 b2 b3 s).params = s.params := rfl
    simp only [afterRead, hparams]
    split
    · rfl
    · exact advance_withLatches last s
  | decoded mask => rfl
  | raw => rfl

/-- An answered write does not look at the latches. -/
theorem answerWrite_withLatches (reg v : Byte) (a : Answer) :
    answerWrite reg v last a (withLatches b0 b1 b2 b3 s) = withLatches b0 b1 b2 b3 (answerWrite reg v last a s) := by
  simp only [answerWrite_eq]
  cases a.err with
  | true => rfl
  | false =>
    exact advance_withLatches last (record (.wr devAddr reg v false) { s with periph := storeReg s.periph reg v })

/-- An answered read does not look at the latches. -/
theorem answerRead_withLatches (reg : Byte) (use : ReadUse) (a : Answer) :
    answerRead reg use last a (withLatches b0 b1 b2 b3 s) = withLatches b0 b1 b2 b3 (answerRead reg use last a s) := by
  simp only [answerRead_eq]
  exact afterRead_withLatches last (record (.rd _ _ _ _) { s with t := _ }) use a.err

/-- A micro-step does not look at the operand latches and leaves them. -/
theorem perform_withLatches (u : MicroStep) :
    perform u last (withLatches b0 b1 b2 b3 s) = withLatches b0 b1 b2 b3 (perform u last s) := by
  cases u with
  | internal d => rfl
  | read reg use =>
    cases hs : takeAnswer s with
    | none => simp [perform, takeAnswer_withLatches, hs]
    | some r => simpa [perform, takeAnswer_withLatches, hs] using answerRead_withLatches last r.2 reg use r.1
  | write reg v =>
    cases hs : takeAnswer s with
    | none => simp [perform, takeAnswer_withLatches, hs]
    | some r => simpa [perform, takeAnswer_withLatches, hs] using answerWrite_withLatches last r.2 reg v r.1

/-- Nor does a micro-program. -/
theorem runMicro_withLatches (prog : List MicroStep) :
    runMicro prog (withLatches b0 b1 b2 b3 s) = mapNext (withLatches b0 b1 b2 b3) (runMicro prog s) := by
  have hstep : (withLatches b0 b1 b2 b3 s).seqStep = s.seqStep := rfl
  simp only [runMicro, hstep]
  cases prog[s.seqStep.toNat]? with
  | none => rfl
  | some u => exact congrArg Host.Outcome.next (perform_withLatches _ s u)

/-- An operation carries its operands, so its micro-program is the same one. -/
theorem exec_withLatches (i : Instr) :
    exec i (withLatches b0 b1 b2 b3 s) = mapNext (withLatches b0 b1 b2 b3) (exec i s) := by
  rw [exec_eq_runMicro, exec_eq_runMicro, ← runMicro_withLatches]
  rfl

/-- A busy block whose word decodes alike with the other bytes takes the same step. -/
theorem blockStep_withLatches {s : State} (hb : s.busy = true)
    (hd : decode (currentWord (withLatches b0 b1 b2 b3 s)) = decode (currentWord s)) :
    blockStep (withLatches b0 b1 b2 b3 s) = mapNext (withLatches b0 b1 b2 b3) (blockStep s) := by
  have hb' : (withLatches b0 b1 b2 b3 s).busy = true := hb
  cases hs : decode (currentWord s) with
  | none => rw [blockStep_illegal hb hs, blockStep_illegal hb' (hd.trans hs)]; rfl
  | some i => rw [blockStep_exec hb hs, blockStep_exec hb' (hd.trans hs), exec_withLatches]

end

/-- Settles O5: the decoder asks for the used fields only, a micro-step does not look at the latches, and the encoder's
fields past the operands are its default. -/
theorem unusedOperandsIgnored : Obligations.UnusedOperandsIgnored := by
  refine ⟨fun w v i h hop h0 h1 h2 h3 => ?_, fun s b0 b1 b2 b3 hb hm hd => ?_, fun i => ?_⟩
  · obtain ⟨hopcode, hoperands⟩ := decode_eq_some_iff.1 h
    exact decode_eq_some_iff.2 ⟨hopcode.trans hop.symm, operands_prefix_congr hoperands h0 h1 h2 h3⟩
  · have hm' : BlockMoves (withLatches b0 b1 b2 b3 s) := hm
    rw [step_blockMoves hm]
    exact (step_blockMoves hm').trans (blockStep_withLatches hb hd)
  · simp only [encode_a0, encode_a1, encode_a2, encode_a3]
    exact ⟨List.getD_eq_default _ _, List.getD_eq_default _ _, List.getD_eq_default _ _, List.getD_eq_default _ _⟩

end Sys2Proof.Machine
end

section
/-! SUPPORT. The assembler's lines and the pseudo-operations (spec/30_encoding.md R82, R83, R90, R92). -/

namespace Sys2Proof.Machine

/-! ## Which operand lists a row takes -/

section
variable (args : List Byte)

theorem build0_isSome (i : Instr) : (build0 i args).isSome = (0 == args.length) := by
  match args with
  | [] | _ :: _ => rfl

theorem build1_isSome (f : Byte → Instr) : (build1 f args).isSome = (1 == args.length) := by
  match args with
  | [] | [_] | _ :: _ :: _ => rfl

theorem build2_isSome (f : Byte → Byte → Instr) : (build2 f args).isSome = (2 == args.length) := by
  match args with
  | [] | [_] | [_, _] | _ :: _ :: _ :: _ => rfl

theorem build3_isSome (f : Byte → Byte → Byte → Instr) : (build3 f args).isSome = (3 == args.length) := by
  match args with
  | [] | [_] | [_, _] | [_, _, _] | _ :: _ :: _ :: _ :: _ => rfl

theorem build4_isSome (f : Byte → Byte → Byte → Byte → Instr) : (build4 f args).isSome = (4 == args.length) := by
  match args with
  | [] | [_] | [_, _] | [_, _, _] | [_, _, _, _] | _ :: _ :: _ :: _ :: _ :: _ => rfl

end

/-- A row of the assembler's table takes exactly the operand lists that a row of `operandCounts` says. -/
def TakesCount (row : AssemblyRow) (count : String × Nat) : Prop :=
  count.1 = row.mnemonic ∧ ∀ args, (row.build args).isSome = (count.2 == args.length)

/-- The assembler's table and the operand counts of R82 agree row by row. -/
theorem assemblyTable_takesCount : List.Forall₂ TakesCount assemblyTable operandCounts := by
  simp [assemblyTable, operandCounts, TakesCount, build0_isSome, build1_isSome, build2_isSome, build3_isSome,
    build4_isSome]

/-- Where rows agree and no mnemonic stands twice, building from the row of a mnemonic succeeds exactly when some count
of that mnemonic is the number of operands. -/
theorem find_build_isSome (m : String) (args : List Byte) {rows : List AssemblyRow} {counts : List (String × Nat)}
    (h : List.Forall₂ TakesCount rows counts) (hdistinct : (counts.map Prod.fst).Nodup) :
    ((rows.find? (fun row => row.mnemonic == m)).bind (fun row => row.build args)).isSome =
      counts.any (fun count => count.1 == m && count.2 == args.length) := by
  induction h with
  | nil => rfl
  | @cons row count rows counts hrow _ ih =>
    obtain ⟨hname, htakes⟩ := hrow
    obtain ⟨hnew, hdistinct⟩ := List.nodup_cons.1 hdistinct
    by_cases hm : row.mnemonic = m
    · have hrest : counts.any (fun count => count.1 == m && count.2 == args.length) = false := by
        rw [List.any_eq_false]
        intro c hc hcount
        obtain ⟨hcm, -⟩ : c.1 = m ∧ c.2 = args.length := by simpa using hcount
        exact hnew (List.mem_map.2 ⟨c, hc, hcm.trans (hname.trans hm).symm⟩)
      simp [hm, hname, htakes, hrest]
    · simp [hm, hname, ih hdistinct]

/-- A line with the right number of operands has a known mnemonic. -/
theorem knownMnemonic_of_operandCountRight {l : SourceLine} (h : l.operandCountRight = true) :
    l.knownMnemonic = true := by
  obtain ⟨row, hrow, hboth⟩ := List.any_eq_true.1 h
  exact List.any_eq_true.2 ⟨row, hrow, (Bool.and_eq_true_iff.1 hboth).1⟩

/-- A line assembles exactly when it is well formed (R90). -/
theorem isSome_assemble (l : SourceLine) : (assemble l).isSome = l.wellFormed := by
  have hfind := find_build_isSome l.mnemonic (l.operands.map (BitVec.ofNat 8)) assemblyTable_takesCount (by decide)
  rw [List.length_map] at hfind
  have hknown : (l.knownMnemonic && l.operandCountRight) = l.operandCountRight :=
    Bool.and_eq_right_iff_imp.2 knownMnemonic_of_operandCountRight
  rw [SourceLine.wellFormed, hknown, assemble]
  cases l.operandsFit with
  | false => simp
  | true => simpa [SourceLine.operandCountRight] using hfind

/-! ## The line of an operation -/

/-- A line's numbers are the operation's operands (R82). -/
theorem sourceLine_operands (i : Instr) : i.sourceLine.operands = i.operands.map BitVec.toNat := by
  cases i <;> rfl

/-- The row of an operation's mnemonic builds the operation from its operands. -/
theorem assemblyTable_find (i : Instr) :
    (assemblyTable.find? (fun row => row.mnemonic == i.sourceLine.mnemonic)).bind (fun row => row.build i.operands) =
      some i := by
  cases i <;> rfl

/-- The line an operation is written as assembles to it. -/
theorem assemble_sourceLine (i : Instr) : assemble i.sourceLine = some i := by
  have hfit : i.sourceLine.operandsFit = true := by
    rw [SourceLine.operandsFit, sourceLine_operands]
    simpa using fun (b : Byte) (_ : b ∈ i.operands) => b.isLt
  have hbytes : i.sourceLine.operands.map (BitVec.ofNat 8) = i.operands := by
    simp [sourceLine_operands, Function.comp_def]
  rw [assemble, if_pos hfit, hbytes, assemblyTable_find]

/-- Settles O7: the assembler's table takes what the operand counts say. -/
theorem assemblerTakesWellFormedLines : Obligations.AssemblerTakesWellFormedLines :=
  ⟨isSome_assemble, assemble_sourceLine⟩

/-- Settles O8: two expansions are as R92 shows them, and formatTimestamp's is the date's and then the time's. -/
theorem formatsExpandToGetters : Obligations.FormatsExpandToGetters :=
  ⟨.refl _, .refl _, List.perm_append_comm (l₁ := PseudoOp.formatDate.expand) (l₂ := PseudoOp.formatTime.expand)⟩

end Sys2Proof.Machine
end

section
/-! SUPPORT. What a micro-step of a legal command does once its answer is next, whole state by whole state, and what the
micro-steps of the operations without a result leave alone (spec/10_state.md R26, R31 to R33; spec/60_exceptions.md
R163, R166). -/

namespace Sys2Proof.Machine

open Sys2Proof.Claims

/-! ## One lemma per way a merged read and a write end -/

/-- An operation performs the micro-step it is at (R31). -/
theorem exec_at {i : Instr} {s : State} {u : MicroStep} (hu : microStepAt i s = some u) :
    exec i s = .next (perform u (decide (s.seqStep.toNat + 1 = stepCount i)) s) := by
  rw [exec_eq_runMicro, runMicro_at hu, microProgram_length]

/-- A read of a named register gives what it holds, or the draw where it fails (R53, R55). -/
theorem memRead_named {reg : Byte} (a : Answer) (m : Memory) (hreg : reg.toNat < 8) :
    (memRead reg a m).2 = if a.err then a.draw else Memory.read m reg.toNat := by
  simp [memRead, (isNamed_iff reg).2 hreg]

section
variable {i : Instr} {s : State} {a : Answer} {rest : List Input} (hin : s.inputs = .answer a :: rest)
include hin

/-- A failed read that is surfaced ends its command (R163, R166). -/
theorem exec_merge_fails {reg : Byte} (hu : microStepAt i s = some (.read reg .merge)) (he : a.err = true)
    (hp : s.params.rmwReadErrAborts = true) :
    exec i s = .next
      { completed s statusTransportError none rest [.rd devAddr reg true a.draw] with t := a.draw } := by
  rw [exec_at hu, perform_read hin, answerRead_eq, memRead_failed reg _ he, he]
  exact congrArg Host.Outcome.next (if_pos hp)

/-- A merged read that succeeds, or whose failure is ignored, puts its byte into T and goes on (R32, R166). -/
theorem exec_merge_goesOn {reg b : Byte} {k : StepIndex} (hk : s.seqStep = k)
    (hu : microStepAt i s = some (.read reg .merge)) (hp : a.err = true → s.params.rmwReadErrAborts = false)
    (hb : (memRead reg a s.periph).2 = b) :
    exec i s = .next { s with
      t := b, seqStep := k + 1#3, inputs := rest, history := s.history ++ [.rd devAddr reg a.err b] } := by
  have hlast : decide (s.seqStep.toNat + 1 = stepCount i) = false := by simp [read_last_iff hu]
  have hgo : ¬ (a.err && s.params.rmwReadErrAborts) = true := by simpa using hp
  rw [exec_at hu, hlast, perform_read hin, answerRead_eq, hb, ← hk]
  exact congrArg Host.Outcome.next (if_neg hgo)

/-- A failed write ends its command; its target holds the draw (R55, R163). -/
theorem exec_write_fails {reg v : Byte} (hu : microStepAt i s = some (.write reg v)) (he : a.err = true) :
    exec i s = .next
      { completed s statusTransportError none rest [.wr devAddr reg v true] with
        periph := storeReg s.periph reg a.draw } := by
  rw [exec_at hu, perform_write hin, answerWrite_eq, he]
  rfl

/-- A successful write that is not the last micro-step goes on (R32, R54). -/
theorem exec_write_goesOn {reg v : Byte} {k : StepIndex} (hk : s.seqStep = k)
    (hu : microStepAt i s = some (.write reg v)) (he : a.err = false) (hlast : k.toNat + 1 ≠ stepCount i) :
    exec i s = .next { s with
      seqStep := k + 1#3, periph := storeReg s.periph reg v, inputs := rest,
      history := s.history ++ [.wr devAddr reg v false] } := by
  subst hk
  rw [exec_at hu, decide_eq_false hlast, perform_write hin, answerWrite_eq, he]
  rfl

/-- A successful write that is the last micro-step completes its command with STATUS 0 (R32, R33). -/
theorem exec_write_completes {reg v : Byte} {k : StepIndex} (hk : s.seqStep = k)
    (hu : microStepAt i s = some (.write reg v)) (he : a.err = false) (hlast : k.toNat + 1 = stepCount i) :
    exec i s = .next
      { completed s statusOk none rest [.wr devAddr reg v false] with periph := storeReg s.periph reg v } := by
  subst hk
  rw [exec_at hu, decide_eq_true hlast, perform_write hin, answerWrite_eq, he]
  rfl

end

/-! ## What the operations without a result leave alone -/

@[simp] theorem advance_res (last : Bool) (s : State) : (advance last s).res = s.res := by
  cases last <;> rfl

/-- A micro-step of an operation without a result leaves RES (R26). -/
theorem perform_res {u : MicroStep} (hu : u.givesResult = false) (last : Bool) (s : State) :
    (perform u last s).res = s.res := by
  obtain ⟨h, -⟩ | ⟨d, rfl, -⟩ | ⟨reg, use, a, b, rest, rfl, -, -, h⟩ | ⟨reg, v, a, rest, -, -, h⟩ :=
    perform_transacts u last s
  · rw [h]
  · cases hu
  · rw [h]
    cases use with
    | merge =>
      simp only [afterRead]
      split
      · rfl
      · exact advance_res last _
    | decoded mask => cases hu
    | raw => cases hu
  · rw [h]
    split
    · rfl
    · exact advance_res last _

/-- A write micro-step leaves T, answered or not (R25). -/
theorem perform_write_t (reg v : Byte) (last : Bool) (s : State) : (perform (.write reg v) last s).t = s.t := by
  cases ht : takeAnswer s with
  | none => rw [perform_waits rfl last ht]
  | some r =>
    obtain ⟨rest, hin, -⟩ := takeAnswer_eq_some.1 ht
    exact (perform_write_ends hin reg v last).t_eq

/-- STATUS stays while the command is in progress (R27). -/
theorem perform_status_of_busy {u : MicroStep} {last : Bool} {s : State} (hb : (perform u last s).busy = true) :
    (perform u last s).status = s.status := by
  cases perform_outcome u last s with
  | waits same => rw [same]
  | movesOn e notLast busy index status => exact status
  | completes events code data idle => rw [idle] at hb; cases hb

/-- An operation stores exactly where its micro-step is a write. -/
theorem storeAddress_eq_some {i : Instr} {s : State} {a : Nat} :
    storeAddress i s = some a ↔ ∃ reg v, microStepAt i s = some (.write reg v) ∧ reg.toNat = a := by
  unfold storeAddress
  split
  · rename_i reg v hu
    simp [hu]
  · rename_i hne
    simp only [reduceCtorEq, false_iff]
    rintro ⟨reg, v, hu, -⟩
    exact hne reg v hu

/-- SETDATE has write micro-steps only (R110). -/
theorem setDateProgram_writes {day month year weekDay : Byte} {k : Nat} {u : MicroStep}
    (hu : (setDateProgram day month year weekDay)[k]? = some u) : ∃ reg v, u = .write reg v := by
  have hmem := List.mem_of_getElem? hu
  simp only [setDateProgram, List.mem_cons, List.not_mem_nil, or_false] at hmem
  obtain rfl | rfl | rfl | rfl := hmem <;> exact ⟨_, _, rfl⟩

/-- Settles O41: what `perform` leaves alone, the micro-step being one of an operation without a result. -/
theorem writersFrame : Obligations.WritersFrame := by
  intro i s s' hi h
  obtain ⟨u, hu, rfl⟩ := exec_next h
  have hres : u.givesResult = false := by rw [givesResult_of_microProgram hu, hi]; rfl
  refine ⟨perform_frame u _ s, perform_res hres _ s, fun a ha => ?bytes, fun hst => ?stores, ?setdate, ?wrraw,
    perform_status_of_busy⟩
  case bytes =>
    refine perform_read_periph u _ s fun reg v hw hreg => ha ?_
    exact storeAddress_eq_some.2 ⟨reg, v, hw ▸ hu, hreg.symm⟩
  case stores =>
    obtain ⟨a, ha⟩ := Option.isSome_iff_exists.1 hst
    obtain ⟨reg, v, hw, -⟩ := storeAddress_eq_some.1 ha
    obtain rfl : u = .write reg v := Option.some.inj (hu.symm.trans hw)
    exact perform_write_t reg v _ s
  case setdate =>
    rintro day month year weekDay rfl
    obtain ⟨reg, v, rfl⟩ := setDateProgram_writes hu
    exact perform_write_t reg v _ s
  case wrraw =>
    rintro addr value rfl
    obtain rfl : u = .write addr value := List.mem_singleton.1 (List.mem_of_getElem? hu)
    exact ⟨perform_write_t addr value _ s, storeAddress_eq_some.2 ⟨addr, value, hu, rfl⟩⟩

end Sys2Proof.Machine
end

section
/-! SUPPORT. INIT (spec/40_initialize.md R100). -/

namespace Sys2Proof.Machine

open Sys2Proof.Claims

/-! ## INIT's micro-steps, as R100 tabulates them -/

section
variable {s : State}

theorem microStepAt_init_zero (hk : s.seqStep = 0#3) : microStepAt .init s = some (.read 0x02#8 .merge) := by
  rw [microStepAt, hk]
  rfl

theorem microStepAt_init_one (hk : s.seqStep = 1#3) :
    microStepAt .init s = some (.write 0x02#8 (initHours s.params s.t)) := by
  rw [microStepAt, hk]
  rfl

theorem microStepAt_init_two (hk : s.seqStep = 2#3) : microStepAt .init s = some (.write 0x07#8 0x93#8) := by
  rw [microStepAt, hk]
  rfl

end

/-- Settles O24: the failing transaction of each micro-step ends the command. -/
theorem initAborts : Obligations.InitAborts := by
  intro s a rest hin he
  exact ⟨fun hk hp => exec_merge_fails hin (microStepAt_init_zero hk) he hp,
    fun hk => exec_write_fails hin (microStepAt_init_one hk) he,
    fun hk => exec_write_fails hin (microStepAt_init_two hk) he⟩

/-- Settles O23: a read that goes on, a write that goes on, and the write that completes. -/
theorem initCompletes : Obligations.InitCompletes := by
  intro s x y z rest hk hin hx hy hz h v
  have hread : (memRead 0x02#8 x s.periph).2 = h := memRead_named x s.periph (by decide)
  have hstep0 := exec_merge_goesOn hin hk (microStepAt_init_zero hk) hx hread
  refine ⟨_, _, hstep0, exec_write_goesOn (k := 1#3) rfl rfl (microStepAt_init_one rfl) hy (by decide), ?_⟩
  rw [exec_write_completes rfl rfl (microStepAt_init_two rfl) hz rfl]
  simp only [completed, List.append_assoc]
  rfl

/-! ## INIT again -/

/-- Merging again what INIT has merged changes nothing: its two masks are disjoint (R100). -/
theorem initHours_initHours (p : Params) (old : Byte) : initHours p (initHours p old) = initHours p old := by
  have hself : initKeepMask &&& initKeepMask = initKeepMask := by decide
  have hdisjoint : initModeMask &&& initKeepMask = 0#8 := by decide
  have hkept : initHours p old &&& initKeepMask = old &&& initKeepMask := by
    rw [initHours, BitVec.and_or_distrib_right, BitVec.and_assoc, hself, BitVec.and_assoc, hdisjoint, BitVec.and_zero,
      BitVec.or_zero]
  calc initHours p (initHours p old)
    _ = (initHours p old &&& initKeepMask) ||| (p.modeConst &&& initModeMask) := rfl
    _ = initHours p old := by rw [hkept, initHours]

/-- Writing a register the byte it holds leaves every register as it reads. -/
theorem Memory.read_write_held {m : Memory} (h : m.Pairwise (fun c d => c.1 < d.1)) {a : Nat} {v : Byte}
    (hv : Memory.read m a = v) (b : Nat) : Memory.read (Memory.write m a v) b = Memory.read m b := by
  by_cases hb : b = a
  · rw [hb, Memory.read_write_same h, hv]
  · exact Memory.read_write_other m hb v

/-- Settles O25: INIT writes back the two bytes that the registers hold. -/
theorem initIsIdempotent : Obligations.InitIsIdempotent := by
  intro s x y z rest old hwf hk hin hx hy hz hhours hctrl
  obtain ⟨s1, s2, h0, h1, h2⟩ := initCompletes s x y z rest hk hin (by simp [hx]) hy hz
  have hmerged : initHours s.params (Memory.read s.periph 2) = Memory.read s.periph 2 := by
    rw [hhours]
    exact initHours_initHours s.params old
  have hfirst (b : Nat) : Memory.read (Memory.write s.periph 2 (initHours s.params (Memory.read s.periph 2))) b =
      Memory.read s.periph b := Memory.read_write_held hwf.1 hmerged.symm b
  refine ⟨s1, s2, _, h0, h1, h2, rfl, rfl, fun a => ?_⟩
  simp only [hx, Bool.false_eq_true, if_false]
  exact (Memory.read_write_held (Memory.write_wf hwf (by decide) _).1 ((hfirst 7).trans hctrl) a).trans (hfirst a)

end Sys2Proof.Machine
end

section
/-! SUPPORT. The codec's two functions as numbers, and what a mask keeps of a small byte (spec/44_bcd_codec.md R140 to
R142, R146). -/

namespace Sys2Proof.Machine

/-- The byte encoder as a number (R141). -/
theorem d2b_toNat (n : Byte) : (d2b n).toNat = (n.toNat / 10 * 16 + n.toNat % 10) % 256 := by
  have hlt := n.isLt
  simp only [d2b, d2b9, BitVec.extractLsb'_toNat, BitVec.toNat_ofNat, Nat.shiftRight_zero]
  omega

/-- The decoder as a number; its byte never overflows (R142). -/
theorem b2d_toNat (n : Byte) : (b2d n).toNat = n.toNat / 16 * 10 + n.toNat % 16 := by
  have hlt := n.isLt
  simp only [b2d, BitVec.toNat_ofNat]
  omega

/-- Up to 99, where no bit is dropped, a byte's two digits are its encoding's (R141). -/
theorem d2b_toNat_of_le {n : Byte} (hn : n.toNat ≤ 99) : (d2b n).toNat = n.toNat / 10 * 16 + n.toNat % 10 := by
  rw [d2b_toNat]
  exact Nat.mod_eq_of_lt (by omega)

/-- Decoding gives back what was encoded, up to 99 (R146). -/
theorem b2d_d2b_of_le {n : Byte} (hn : n.toNat ≤ 99) : b2d (d2b n) = n := by
  apply BitVec.eq_of_toNat_eq
  rw [b2d_toNat, d2b_toNat_of_le hn]
  omega

/-- A mask of the low `k` bits keeps a byte that has no other bit. -/
theorem and_lowMask_of_lt {x mask : Byte} {k : Nat} (hmask : mask.toNat = 2 ^ k - 1) (hx : x.toNat < 2 ^ k) :
    x &&& mask = x := by
  apply BitVec.eq_of_toNat_eq
  rw [BitVec.toNat_and, hmask, Nat.and_two_pow_sub_one_eq_mod, Nat.mod_eq_of_lt hx]

/-- Up to 79 an encoding has bit 7 clear, so GETSEC's mask keeps it whole (R7, R42). -/
theorem d2b_flagBit_clear {n : Byte} (hn : n.toNat ≤ 79) : d2b n &&& 0x7F#8 = d2b n ∧ d2b n &&& 0x80#8 = 0#8 := by
  have hlow : d2b n &&& 0x7F#8 = d2b n := and_lowMask_of_lt (k := 7) rfl (by rw [d2b_toNat_of_le] <;> omega)
  refine ⟨hlow, ?_⟩
  calc d2b n &&& 0x80#8
    _ = d2b n &&& (0x7F#8 &&& 0x80#8) := by rw [← BitVec.and_assoc, hlow]
    _ = 0#8 := BitVec.and_zero

end Sys2Proof.Machine
end

section
/-! SUPPORT. SETDATE and SETTIME (spec/41_set_date_time.md R110, R111). -/

namespace Sys2Proof.Machine

open Sys2Proof.Claims

/-- The micro-step at a given index is read off the micro-program (R31). -/
theorem microStepAt_of_index {i : Instr} {s : State} {k : Nat} (hk : s.seqStep.toNat = k) :
    microStepAt i s = (microProgram i s.params s.t)[k]? := by
  rw [microStepAt, hk]

/-- The byte of SEC_KEEP_MASK, case by case (R8). -/
theorem secKeepByte_eq (m : SecKeepMask) : secKeepByte m = if m = .flagOnly then 0x80#8 else 0xFF#8 := by
  cases m <;> rfl

/-! ## SETDATE -/

/-- Settles O28: the failing write of each micro-step of R110 ends the command. -/
theorem setDateAborts : Obligations.SetDateAborts := by
  intro s day month year weekDay a rest hin he
  simp only [List.forall_mem_cons, List.not_mem_nil, false_imp_iff, implies_true, and_true]
  refine ⟨?day, ?month, ?year, ?weekDay⟩ <;> exact fun hk => exec_write_fails hin (microStepAt_of_index hk) he

/-- Settles O27: three writes that go on, and the write that completes. -/
theorem setDateCompletes : Obligations.SetDateCompletes := by
  intro s day month year weekDay x y z u rest hk hin hx hy hz hu
  have hday : microStepAt (.setdate day month year weekDay) s = some (.write 0x04#8 (d2b day)) :=
    microStepAt_of_index (congrArg BitVec.toNat hk)
  refine ⟨_, _, _, exec_write_goesOn hin hk hday hx nofun,
    exec_write_goesOn (k := 1#3) rfl rfl (microStepAt_of_index rfl) hy nofun,
    exec_write_goesOn (k := 2#3) rfl rfl (microStepAt_of_index rfl) hz nofun, ?_⟩
  rw [exec_write_completes (k := 3#3) rfl rfl (microStepAt_of_index rfl) hu rfl]
  simp only [completed, List.append_assoc]
  rfl

/-! ## SETTIME -/

/-- Settles O30: the failing transaction of each micro-step of R111 ends the command. -/
theorem setTimeAborts : Obligations.SetTimeAborts := by
  intro s hour minute second a rest hin he
  simp only [← secKeepByte_eq, List.forall_mem_cons, List.not_mem_nil, false_imp_iff, implies_true, and_true]
  constructor
  case left =>
    constructor <;> exact fun hk hp => exec_merge_fails hin (microStepAt_of_index hk) he hp
  case right =>
    refine ⟨?hours, ?minutes, ?seconds⟩ <;> exact fun hk => exec_write_fails hin (microStepAt_of_index hk) he

/-- Settles O29: the read and the write of the hours, the write of the minutes, the read of the seconds, which those two
writes leave alone, and the write that completes. -/
theorem setTimeCompletes : Obligations.SetTimeCompletes := by
  intro s hour minute second x y z u v rest hk hin habort hy hz hv oldHours oldSeconds keep mh ms
  have hhours : (memRead 0x02#8 x s.periph).2 = oldHours := memRead_named x s.periph (by decide)
  have hat0 : microStepAt (.settime hour minute second) s = some (.read 0x02#8 .merge) :=
    microStepAt_of_index (congrArg BitVec.toNat hk)
  have hseconds : (memRead 0x00#8 u (storeReg (storeReg s.periph 0x02#8 mh) 0x01#8 (d2b minute))).2 = oldSeconds := by
    rw [memRead_named u _ (by decide), read_storeReg_other _ (by decide), read_storeReg_other _ (by decide)]
    rfl
  have hms : mergedSeconds s.params oldSeconds second = ms := by rw [mergedSeconds, secKeepByte_eq]
  refine ⟨_, _, _, _, exec_merge_goesOn hin hk hat0 (fun h => habort (.inl h)) hhours,
    exec_write_goesOn (k := 1#3) rfl rfl (microStepAt_of_index rfl) hy nofun,
    exec_write_goesOn (k := 2#3) rfl rfl (microStepAt_of_index rfl) hz nofun,
    exec_merge_goesOn (k := 3#3) rfl rfl (microStepAt_of_index rfl) (fun h => habort (.inr h)) hseconds, ?_⟩
  rw [exec_write_completes (k := 4#3) rfl rfl (microStepAt_of_index rfl) hv rfl, hms]
  simp only [completed, List.append_assoc]
  rfl

/-- After the three writes of R111 each of the three registers holds what was written to it. -/
theorem Memory.read_timeWrites {m : Memory} (hwf : Memory.wf m) (h mi se : Byte) :
    Memory.read (Memory.write (Memory.write (Memory.write m 2 h) 1 mi) 0 se) 2 = h ∧
      Memory.read (Memory.write (Memory.write (Memory.write m 2 h) 1 mi) 0 se) 1 = mi ∧
      Memory.read (Memory.write (Memory.write (Memory.write m 2 h) 1 mi) 0 se) 0 = se := by
  have hwf2 := Memory.write_wf hwf (a := 2) (by decide) h
  have hwf1 := Memory.write_wf hwf2 (a := 1) (by decide) mi
  refine ⟨?_, ?_, Memory.read_write_same hwf1.1 0 se⟩
  · rw [Memory.read_write_other _ (by decide), Memory.read_write_other _ (by decide), Memory.read_write_same hwf.1]
  · rw [Memory.read_write_other _ (by decide), Memory.read_write_same hwf2.1]

/-- Settles O32: nothing is merged into the hour and the second, so the registers hold the encoded time. -/
theorem setTimeOnClearedRegistersReadsBack : Obligations.SetTimeOnClearedRegistersReadsBack := by
  intro s hour minute second x y z u v rest hwf hk hin hx hy hz hu hv hmask hhours hflag hhour hminute hsecond
  obtain ⟨s1, s2, s3, s4, h0, h1, h2, h3, h4⟩ :=
    setTimeCompletes s hour minute second x y z u v rest hk hin (by simp [hx, hu]) hy hz hv
  simp only [hx, hu, hmask, hhours, hflag, Bool.false_eq_true, if_false, if_true, BitVec.zero_or] at h4
  obtain ⟨hread2, hread1, hread0⟩ := Memory.read_timeWrites hwf (d2b hour) (d2b minute) (d2b second)
  obtain ⟨hlow, hhalt⟩ := d2b_flagBit_clear (n := second) (by omega)
  have hkept : d2b hour &&& 0x3F#8 = d2b hour := and_lowMask_of_lt (k := 6) rfl (by rw [d2b_toNat_of_le] <;> omega)
  refine ⟨s1, s2, s3, s4, _, h0, h1, h2, h3, h4, rfl, ?_⟩
  simp only [hread2, hread1, hread0, hkept, hlow, hhalt, and_true]
  exact ⟨b2d_d2b_of_le (by omega), b2d_d2b_of_le (by omega), b2d_d2b_of_le (by omega)⟩

end Sys2Proof.Machine
end

section
/-! SUPPORT. What the operations with a result leave alone, and the getters' whole next state (spec/42_getters.md R120 to
R127; spec/10_state.md R26, R28, R31 to R33). -/

namespace Sys2Proof.Machine

open Sys2Proof.Claims

/-! ## What the operations with a result leave alone -/

/-- A micro-step that gives a result completes its command or waits: it never moves on, so SEQ.step stays (R23, R33). -/
theorem perform_givesResult_seqStep {u : MicroStep} (hu : u.givesResult = true) (last : Bool) (s : State) :
    (perform u last s).seqStep = s.seqStep := by
  obtain ⟨h, -⟩ | ⟨d, -, h⟩ | ⟨reg, use, a, b, rest, rfl, -, -, h⟩ | ⟨reg, v, a, rest, rfl, -, -⟩ :=
    perform_transacts u last s
  · rw [h]
  · rw [h]
    rfl
  · rw [h]
    cases use with
    | merge => cases hu
    | decoded mask => rfl
    | raw => rfl
  · cases hu

/-- A micro-step that gives a result is no write, so every byte of the peripheral stays. -/
theorem perform_givesResult_periph {u : MicroStep} (hu : u.givesResult = true) (last : Bool) (s : State) (a : Nat) :
    Memory.read (perform u last s).periph a = Memory.read s.periph a := by
  refine perform_read_periph u last s ?_
  rintro reg v rfl
  cases hu

/-- The frame that the getters, RDRAW and the codec commands share: an operation with a result leaves the latches,
SEQ.step and the peripheral. -/
theorem exec_result_frame {i : Instr} {s s' : State} (hi : surfacesFailure i = false) (h : exec i s = .next s') :
    SameLatches s s' ∧ s'.seqStep = s.seqStep ∧ ∀ a, Memory.read s'.periph a = Memory.read s.periph a := by
  obtain ⟨u, hu, rfl⟩ := exec_next h
  have hresult : u.givesResult = true := by rw [givesResult_of_microProgram hu, hi]; rfl
  exact ⟨perform_frame u _ s, perform_givesResult_seqStep hresult _ s, perform_givesResult_periph hresult _ s⟩

/-- A reading operation surfaces no failure (R165). -/
theorem surfacesFailure_of_readsOnly {i : Instr} (h : readsOnly i = true) : surfacesFailure i = false := by
  cases i with
  | init | setdate | settime | wrraw | d2b | b2d => cases h
  | getsec | getmin | gethour | getwday | getday | getmon | getyear | rdraw => rfl

/-- Settles O39: a reading operation is one with a result, and those leave the latches, SEQ.step and the peripheral. -/
theorem readersFrame : Obligations.ReadersFrame :=
  fun _ _ _ hi h => exec_result_frame (surfacesFailure_of_readsOnly hi) h

/-! ## The getters -/

/-- An operation whose micro-program is a getter's (R120), on a named register, does with an answer what R120 says. -/
theorem getterResult_of_getterProgram {i : Instr} {reg mask : Byte} (hreg : reg.toNat < 8)
    (hprog : ∀ p t, microProgram i p t = getterProgram reg mask) : GetterResult i reg mask := by
  intro s a rest hk hin b d
  have hat : microStepAt i s = some (.read reg (.decoded mask)) := by
    rw [microStepAt, hprog, hk]
    rfl
  have hb : (memRead reg a s.periph).2 = b := memRead_named a s.periph hreg
  rw [exec_at hat, perform_read hin, answerRead_eq, hb]
  rfl

/-- Settles O34: each getter's micro-program is the one read of its register, with its mask. -/
theorem gettersComplete : Obligations.GettersComplete := by
  refine ⟨?getsec, ?getmin, ?gethour, ?getwday, ?getday, ?getmon, ?getyear⟩ <;>
    exact getterResult_of_getterProgram (by decide) fun _ _ => rfl

end Sys2Proof.Machine
end

section
/-! SUPPORT. RDRAW and WRRAW: the whole next state (spec/43_raw_access.md R135, R136). -/

namespace Sys2Proof.Machine

open Sys2Proof.Claims

/-! ## Any address: a named register, or one left to the peripheral (U5) -/

/-- A read gives what a named register holds where it succeeds, else the draw (R53, R55, U5). -/
theorem memRead_byte (reg : Byte) (a : Answer) (m : Memory) :
    (memRead reg a m).2 = if a.err = false ∧ reg.toNat < 8 then Memory.read m reg.toNat else a.draw := by
  cases he : a.err with
  | true => simp [memRead_failed reg m he]
  | false =>
    by_cases hreg : reg.toNat < 8
    · simp [memRead_held m he hreg, hreg]
    · simp [memRead, he, isNamed, hreg]

/-- A store changes the register aimed at where it is a named one, else nothing (R54, U5). -/
theorem storeReg_eq (m : Memory) (reg v : Byte) :
    storeReg m reg v = if reg.toNat < 8 then Memory.write m reg.toNat v else m := by
  simp only [storeReg, isNamed_iff]

/-! ## RDRAW -/

/-- Settles O35: the one raw read completes with its byte as it is. -/
theorem rdrawCompletes : Obligations.RdrawCompletes := by
  intro s addr a rest hk hin b
  have hat : microStepAt (.rdraw addr) s = some (.read addr .raw) :=
    microStepAt_of_index (congrArg BitVec.toNat hk)
  have hb : (memRead addr a s.periph).2 = b := memRead_byte addr a s.periph
  rw [exec_at hat, perform_read hin, answerRead_eq, hb]
  rfl

/-! ## WRRAW -/

/-- WRRAW's one micro-step, as R136 tabulates it. -/
theorem microStepAt_wrraw {s : State} (addr value : Byte) (hk : s.seqStep = 0#3) :
    microStepAt (.wrraw addr value) s = some (.write addr value) :=
  microStepAt_of_index (congrArg BitVec.toNat hk)

/-- Settles O36: the write is the last micro-step, so its success completes the command. -/
theorem wrrawCompletes : Obligations.WrrawCompletes := by
  intro s addr value a rest hk hin he
  rw [← storeReg_eq]
  exact exec_write_completes hin hk (microStepAt_wrraw addr value hk) he rfl

/-- Settles O37: the failing write ends the command, the draw standing in its target. -/
theorem wrrawAborts : Obligations.WrrawAborts := by
  intro s addr value a rest hk hin he
  rw [← storeReg_eq]
  exact exec_write_fails hin (microStepAt_wrraw addr value hk) he

end Sys2Proof.Machine
end

section
/-! SUPPORT. The laws of the codec's two functions, each read off their numbers (spec/44_bcd_codec.md R140 to R142,
R147). -/

namespace Sys2Proof.Machine

open Sys2Proof.Claims

/-! ## The exact encoder -/

/-- The exact encoder as a number; nine bits hold it (R140). -/
theorem d2b9_toNat (n : Byte) : (d2b9 n).toNat = n.toNat / 10 * 16 + n.toNat % 10 := by
  have hlt := n.isLt
  simp only [d2b9, BitVec.toNat_ofNat]
  omega

/-- Every ten counts six more, the nibble values that BCD leaves out (R147). -/
theorem d2b9_toNat_closed (n : Byte) : (d2b9 n).toNat = n.toNat + 6 * (n.toNat / 10) := by
  rw [d2b9_toNat]
  omega

/-- The byte encoder keeps the low byte of the exact one (R141). -/
theorem d2b_toNat_mod (n : Byte) : (d2b n).toNat = (d2b9 n).toNat % 256 := by
  rw [d2b_toNat, d2b9_toNat]

/-- Settles O9: every clause is about the number `n div 10 * 16 + n mod 10`. -/
theorem exactEncoder : Obligations.ExactEncoder := by
  intro n
  have hlt := n.isLt
  rw [d2b9_toNat]
  refine ⟨rfl, ?max, ?digits, ?highNibble, ?carry⟩ <;> omega

/-- Settles O10: the exact encoding needs bit 8 just from 160 on, and stays below 512. -/
theorem byteEncoderDropsCarry : Obligations.ByteEncoderDropsCarry := by
  intro n
  have hlt := n.isLt
  refine ⟨d2b_toNat n, ?below, ?carry⟩ <;> rw [d2b_toNat, d2b9_toNat] <;> omega

/-! ## The decoder -/

/-- A byte falls short of its value by six for each unit of its high nibble (R147). -/
theorem b2d_toNat_closed (x : Byte) : (b2d x).toNat + 6 * (x.toNat / 16) = x.toNat := by
  rw [b2d_toNat]
  omega

/-- The high nibble as a number. -/
theorem highNibble_toNat (n : Byte) : (n.extractLsb' 4 4).toNat = n.toNat / 16 := by
  have hlt := n.isLt
  rw [BitVec.extractLsb'_toNat, Nat.shiftRight_eq_div_pow]
  omega

/-- The low nibble as a number. -/
theorem lowNibble_toNat (n : Byte) : (n.extractLsb' 0 4).toNat = n.toNat % 16 := by
  rw [BitVec.extractLsb'_toNat, Nat.shiftRight_zero]

/-- Settles O11: the quotient and the remainder by 16 are the nibbles. -/
theorem decoderFormula : Obligations.DecoderFormula := by
  refine ⟨fun n => ?_, rfl, rfl, rfl, rfl⟩
  have hlt := n.isLt
  rw [highNibble_toNat, lowNibble_toNat, b2d_toNat]
  exact ⟨rfl, rfl, by omega⟩

/-- After a mask with all of the low nibble, the decoder's value is at most that of the mask (R147). -/
theorem b2d_and_le (x : Byte) {mask : Byte} (hmask : mask.toNat % 16 = 15) :
    (b2d (x &&& mask)).toNat ≤ mask.toNat / 16 * 10 + 15 := by
  have hle : (x &&& mask).toNat ≤ mask.toNat := by
    rw [BitVec.toNat_and]
    exact Nat.and_le_right
  rw [b2d_toNat]
  omega

/-! ## Encoder and decoder together -/

/-- Decoding an encoding loses just the carry that the byte encoder drops, which stands for 160 (R147). -/
theorem b2d_d2b_toNat (n : Byte) : (b2d (d2b n)).toNat = n.toNat % 160 := by
  have hlt := n.isLt
  rw [b2d_toNat, d2b_toNat]
  omega

/-- Decoding gives back what was encoded as long as no carry is dropped (R147). -/
theorem b2d_d2b_of_no_carry {n : Byte} (hn : n.toNat ≤ 159) : b2d (d2b n) = n := by
  apply BitVec.eq_of_toNat_eq
  rw [b2d_d2b_toNat]
  omega

/-- With the carry dropped, decoding gives the number less 160, so another one (R147). -/
theorem b2d_d2b_of_carry {n : Byte} (hn : 160 ≤ n.toNat) : b2d (d2b n) = n - 160#8 ∧ b2d (d2b n) ≠ n := by
  have hlt := n.isLt
  rw [← BitVec.toNat_inj, ne_eq, ← BitVec.toNat_inj, b2d_d2b_toNat, BitVec.toNat_sub_of_le hn, BitVec.toNat_ofNat]
  constructor <;> omega

/-- Encoding what was decoded adds six where the low nibble is no decimal digit (R147). -/
theorem d2b_b2d_toNat (x : Byte) : (d2b (b2d x)).toNat = (x.toNat + 6 * (x.toNat % 16 / 10)) % 256 := by
  rw [d2b_toNat, b2d_toNat]
  omega

/-- Encoding gives back the bytes whose low nibble is a decimal digit, and no other (R147). -/
theorem d2b_b2d_iff (x : Byte) : d2b (b2d x) = x ↔ x.toNat % 16 ≤ 9 := by
  have hlt := x.isLt
  rw [← BitVec.toNat_inj, d2b_b2d_toNat]
  omega

/-- The encoder leaves the one-digit numbers alone, and no other (R147). -/
theorem d2b_eq_self_iff (n : Byte) : d2b n = n ↔ n.toNat ≤ 9 := by
  have hlt := n.isLt
  rw [← BitVec.toNat_inj, d2b_toNat_mod, d2b9_toNat_closed]
  omega

/-- The decoder leaves the bytes without a high nibble alone, and no other (R147). -/
theorem b2d_eq_self_iff (x : Byte) : b2d x = x ↔ x.toNat ≤ 15 := by
  have hclosed := b2d_toNat_closed x
  rw [← BitVec.toNat_inj]
  omega

/-- The exact encoder is strictly increasing (R147). -/
theorem d2b9_strictMono {n m : Byte} (h : n.toNat < m.toNat) : (d2b9 n).toNat < (d2b9 m).toNat := by
  rw [d2b9_toNat_closed, d2b9_toNat_closed]
  omega

/-- Up to 159 the decoder is a left inverse, so no two numbers have one encoding (R147). -/
theorem d2b_injective_of_no_carry {n m : Byte} (hn : n.toNat ≤ 159) (hm : m.toNat ≤ 159) (h : d2b n = d2b m) :
    n = m := by
  rw [← b2d_d2b_of_no_carry hn, h, b2d_d2b_of_no_carry hm]

/-- Settles O13, one lemma per law. -/
theorem codecLaws : Obligations.CodecLaws :=
  ⟨fun _ => b2d_d2b_of_no_carry, fun _ => b2d_d2b_of_carry, d2b_b2d_iff,
    fun n => ⟨d2b9_toNat_closed n, d2b_eq_self_iff n⟩, fun x => ⟨b2d_toNat_closed x, b2d_eq_self_iff x⟩,
    fun _ _ => d2b9_strictMono, fun _ _ => d2b_injective_of_no_carry,
    fun x => ⟨b2d_and_le x (mask := 0x7F#8) rfl, b2d_and_le x (mask := 0x3F#8) rfl⟩⟩

end Sys2Proof.Machine
end

section
/-! SUPPORT. D2B and B2D as commands: one internal micro-step, which completes (spec/44_bcd_codec.md R143, R144,
R146). -/

namespace Sys2Proof.Machine

open Sys2Proof.Claims

/-- A completion without a transaction takes no input and adds the response alone (R33). -/
theorem complete_eq_completed (code : Status) (data : Option Byte) (s : State) :
    complete code data s = completed s code data s.inputs [] := by
  simp [completed, complete, record, setStatus]

section
variable {i : Instr} {d : Byte} (hprog : ∀ p t, microProgram i p t = [.internal d]) {s s' : State}
include hprog

/-- An operation of one internal micro-step completes with its byte, whatever the inputs are (R31, R33). -/
theorem exec_internal (hk : s.seqStep = 0#3) : exec i s = .next (complete statusOk (some d) s) := by
  have hat : microStepAt i s = some (.internal d) := by
    rw [microStepAt, hprog, hk]
    rfl
  exact exec_at hat

/-- An operation of one internal micro-step has no other next state than its completion. -/
theorem exec_internal_next (h : exec i s = .next s') : s' = complete statusOk (some d) s := by
  obtain ⟨u, hu, rfl⟩ := exec_next h
  rw [hprog] at hu
  obtain rfl : u = .internal d := List.mem_singleton.1 (List.mem_of_getElem? hu)
  rfl

end

/-- D2B at its one micro-step (R143). -/
theorem exec_d2b {s : State} (n : Byte) (hk : s.seqStep = 0#3) :
    exec (.d2b n) s = .next (complete statusOk (some (d2b n)) s) :=
  exec_internal (fun _ _ => rfl) hk

/-- B2D at its one micro-step (R144). -/
theorem exec_b2d {s : State} (n : Byte) (hk : s.seqStep = 0#3) :
    exec (.b2d n) s = .next (complete statusOk (some (b2d n)) s) :=
  exec_internal (fun _ _ => rfl) hk

/-- What a codec command answers with is the completion with some byte. -/
theorem exec_codec_next {n : Byte} {s s' : State} (h : exec (.d2b n) s = .next s' ∨ exec (.b2d n) s = .next s') :
    ∃ d, s' = complete statusOk (some d) s := by
  obtain h | h := h
  · exact ⟨d2b n, exec_internal_next (fun _ _ => rfl) h⟩
  · exact ⟨b2d n, exec_internal_next (fun _ _ => rfl) h⟩

/-- The byte encoder is the exact formula cut to eight bits (R141). -/
theorem d2b_eq_ofNat (n : Byte) : d2b n = BitVec.ofNat 8 (n.toNat / 10 * 16 + n.toNat % 10) := by
  apply BitVec.eq_of_toNat_eq
  rw [d2b_toNat, BitVec.toNat_ofNat]

/-- Settles O38: each command's one micro-step is internal. -/
theorem codecCommandsComplete : Obligations.CodecCommandsComplete := by
  intro s n hk
  rw [exec_d2b n hk, exec_b2d n hk, complete_eq_completed, complete_eq_completed, d2b_eq_ofNat]
  exact ⟨rfl, rfl⟩

/-- Settles O40: the next state is the completion, which touches nothing else. -/
theorem codecFrame : Obligations.CodecFrame := by
  intro n s s' h
  obtain ⟨d, rfl⟩ := exec_codec_next h
  exact ⟨⟨rfl, rfl, rfl, rfl, rfl, rfl, rfl⟩, rfl, rfl, rfl, rfl, rfl, fun _ => rfl⟩

/-- Settles O12: D2B's result is its encoding, and B2D decodes it. -/
theorem codecRoundTrip : Obligations.CodecRoundTrip :=
  ⟨fun _ => b2d_d2b_of_le, fun _ _ n hs hq => ⟨_, _, exec_d2b n hs, exec_b2d _ hq, b2d_d2b_of_le⟩⟩

end Sys2Proof.Machine
end

section
/-! SUPPORT. The two errors, and the status each completion has (spec/60_exceptions.md R161 to R167). -/

namespace Sys2Proof.Machine

open Sys2Proof.Claims

/-! ## The abort of a command in progress (R163) -/

/-- An operation that surfaces failures performs merged reads and writes only (R161). -/
theorem microStepAt_surfacing {i : Instr} {s : State} {u : MicroStep} (hi : surfacesFailure i = true)
    (hu : microStepAt i s = some u) : (∃ reg, u = .read reg .merge) ∨ ∃ reg v, u = .write reg v := by
  have hres : u.givesResult = false := by rw [givesResult_of_microProgram hu, hi]; rfl
  cases u with
  | read reg use =>
    cases use with
    | merge => exact .inl ⟨reg, rfl⟩
    | decoded mask => cases hres
    | raw => cases hres
  | write reg v => exact .inr ⟨reg, v, rfl⟩
  | internal d => cases hres

/-- Settles O43: a merged read's failure and a write's failure each give the aborted state, and the draw goes to T or to
the write's target. -/
theorem surfacedFailureEndsCommand : Obligations.SurfacedFailureEndsCommand := by
  intro i s a rest u hi hu hin he hp
  obtain ⟨reg, rfl⟩ | ⟨reg, v, rfl⟩ := microStepAt_surfacing hi hu
  · refine ⟨_, .rd devAddr reg true a.draw, exec_merge_fails hin hu he (hp ⟨reg, .merge, rfl⟩), rfl, rfl, rfl,
      List.append_assoc _ _ _, rfl, rfl, ?read, nofun⟩
    rintro _ _ ⟨⟩
    exact ⟨rfl, rfl⟩
  · refine ⟨_, .wr devAddr reg v true, exec_write_fails hin hu he, rfl, rfl, rfl,
      List.append_assoc _ _ _, rfl, rfl, nofun, ?write⟩
    rintro _ _ ⟨⟩
    exact ⟨rfl, fun b hb => read_storeReg_other s.periph hb a.draw⟩

/-! ## The status of a completion (R161) -/

/-- Advance completes a command in progress with STATUS 0 only (R32). -/
theorem advance_status_of_idle {last : Bool} {s : State} (hb : s.busy = true) (h : (advance last s).busy = false) :
    (advance last s).status = statusOk := by
  cases last
  · cases hb.symm.trans h
  · rfl

/-- A micro-step that completes its command does so with STATUS 0, or, where its operation has no result, with
STATUS 1 (R161, R165). -/
theorem perform_status_of_idle {u : MicroStep} {last : Bool} {s : State} (hb : s.busy = true)
    (hidle : (perform u last s).busy = false) :
    (perform u last s).status = statusOk ∨
      (perform u last s).status = statusTransportError ∧ u.givesResult = false := by
  obtain ⟨h, -⟩ | ⟨d, rfl, h⟩ | ⟨reg, use, a, b, rest, rfl, -, -, h⟩ | ⟨reg, v, a, rest, rfl, -, h⟩ :=
    perform_transacts u last s <;> rw [h] at hidle ⊢
  · cases hb.symm.trans hidle
  · exact .inl rfl
  · obtain ⟨d, hend, -⟩ | ⟨hend, rfl, -⟩ | ⟨hend, -⟩ := afterRead_cases use last a.err
      (transacted (.rd devAddr reg a.err b) b s.periph rest s) <;> rw [hend] at hidle ⊢
    · exact .inl rfl
    · exact .inr ⟨rfl, rfl⟩
    · exact .inl (advance_status_of_idle hb hidle)
  · cases herr : a.err with
    | true => exact .inr ⟨rfl, rfl⟩
    | false =>
      rw [herr] at hidle
      exact .inl (advance_status_of_idle hb hidle)

/-- A micro-step that completes its command ends the history with the response of STATUS, its data being RES where the
micro-step gives a result (R26, R33). -/
theorem perform_response_of_idle {u : MicroStep} {last : Bool} {s : State} (hb : s.busy = true)
    (hidle : (perform u last s).busy = false) :
    (perform u last s).history.getLast? = some
      (.rsp (perform u last s).status (if u.givesResult then some (perform u last s).res else none)) := by
  cases perform_outcome u last s with
  | waits same => rw [same, hb] at hidle; cases hidle
  | movesOn e notLast busy => rw [busy, hb] at hidle; cases hidle
  | completes events code data idle status legal result history gives =>
    rw [history, List.getLast?_concat, status, ← gives, ← data_eq_res result]

/-- Settles O44: whether a completing micro-step gives a result is the operation's. -/
theorem completionStatus : Obligations.CompletionStatus := by
  intro i s s' h hb hidle
  obtain ⟨u, hu, rfl⟩ := exec_next h
  have hgives := givesResult_of_microProgram hu
  have hrsp := perform_response_of_idle hb hidle
  have hstatus := perform_status_of_idle hb hidle
  refine ⟨fun hi => ?surfaces, fun hi => ?ignores⟩ <;> simp only [hi, Bool.not_true, Bool.not_false] at hgives
  case surfaces =>
    rw [hgives] at hrsp
    exact ⟨hstatus.imp_right And.left, perform_res hgives _ s, hrsp⟩
  case ignores =>
    have hok := hstatus.resolve_right fun ⟨_, hnone⟩ => Bool.false_ne_true (hnone.symm.trans hgives)
    rw [hgives, hok] at hrsp
    exact ⟨hok, hrsp⟩

/-! ## A failed read that is not surfaced (R166) -/

/-- A merged read whose failure is ignored puts the draw into T and goes on. -/
theorem exec_merge_ignoresFailure {i : Instr} {s : State} {a : Answer} {rest : List Input} {reg : Byte}
    {k : StepIndex} (hin : s.inputs = .answer a :: rest) (he : a.err = true)
    (hp : s.params.rmwReadErrAborts = false) (hk : s.seqStep = k) (hu : microStepAt i s = some (.read reg .merge)) :
    exec i s = .next { s with
      t := a.draw, seqStep := k + 1#3, inputs := rest,
      history := s.history ++ [.rd devAddr reg true a.draw] } := by
  rw [exec_merge_goesOn hin hk hu (fun _ => hp) (memRead_failed reg s.periph he), he]

/-- Settles O31: the reads of INIT and SETTIME are merged ones. -/
theorem ignoredReadFailureGoesOn : Obligations.IgnoredReadFailureGoesOn := by
  intro s hour minute second a rest hin he hp
  refine ⟨fun hk => ⟨?init, ?hours⟩, fun hk => ?seconds⟩
  case init => exact exec_merge_ignoresFailure hin he hp hk (microStepAt_init_zero hk)
  case hours => exact exec_merge_ignoresFailure hin he hp hk (microStepAt_of_index (congrArg BitVec.toNat hk))
  case seconds => exact exec_merge_ignoresFailure hin he hp hk (microStepAt_of_index (congrArg BitVec.toNat hk))

/-! ## The refusal of an illegal command (R164) -/

/-- Settles O42: the refusal is a completion with STATUS 2 and no data. -/
theorem illegalCommandRefused : Obligations.IllegalCommandRefused :=
  fun _ hm hb hd => step_illegal hm hb hd

end Sys2Proof.Machine
end

section
/-! SUPPORT. A reset at any point of a command, what comes between a read and its write-back, and SETTIME on a halted
chip (spec/70_reset_and_hazards.md R190, R201, R204). -/

namespace Sys2Proof.Machine

open Sys2Proof.Claims

/-! ## Reset (R190) -/

/-- Settles O46: the reset's memory is `abandonInFlight`'s, and no event is recorded. -/
theorem resetAbandonsCommand : Obligations.ResetAbandonsCommand := by
  intro s d rest hin
  exact ⟨_, step_reset hin, rfl, rfl, rfl, rfl, rfl,
    fun _ hother => read_abandonInFlight_other d (s := { s with inputs := rest }) hother,
    fun _ _ _ _ hwf hout hreg hland =>
      read_abandonInFlight_target (s := { s with inputs := rest }) hwf hout hreg hland⟩

/-- In a silence the idle block accepts the word offered, and the later inputs stay (R30). -/
theorem step_quiet_accept {s : State} {w : CommandWord} {ws : List CommandWord} {rest : List Input}
    (hb : s.busy = false) (ho : s.offers = w :: ws) (hin : s.inputs = .quiet :: rest) :
    step s = .next (accept w { s with offers := ws, inputs := rest }) := by
  rw [step_quiet hin, blockStep_idle (s := { s with inputs := [] }) hb, idleStep, ho]
  rfl

/-- Two micro-programs begin with a write: WRRAW's, and SETDATE's of the day (R110, R136). -/
theorem microProgram_head_write {i : Instr} {p : Params} {t reg v : Byte}
    (h : (microProgram i p t)[0]? = some (.write reg v)) :
    i = .wrraw reg v ∨ reg = 0x04#8 ∧ ∃ day month year weekDay, i = .setdate day month year weekDay := by
  cases i with
  | wrraw addr value => cases h; exact .inl rfl
  | setdate day month year weekDay => cases h; exact .inr ⟨rfl, day, month, year, weekDay, rfl⟩
  | _ => cases h

/-- A write outstanding just after acceptance is WRRAW's or SETDATE's first. -/
theorem outstanding_accept_write {w : CommandWord} {s : State} {dev : DeviceAddr} {reg v : Byte}
    (h : outstanding (accept w s) = some (.write dev reg v)) :
    decode w = some (.wrraw reg v) ∨
      reg = 0x04#8 ∧ ∃ day month year weekDay, decode w = some (.setdate day month year weekDay) := by
  obtain ⟨-, i, u, hd, hu, hreq⟩ := outstanding_some h
  obtain ⟨-, rfl⟩ := request_write hreq
  rw [currentWord_accepted] at hd
  obtain rfl | ⟨hreg, day, month, year, weekDay, rfl⟩ := microProgram_head_write hu
  · exact .inl hd
  · exact .inr ⟨hreg, day, month, year, weekDay, hd⟩

/-- Settles O57: the silence lets the acceptance come, then `ResetAbandonsCommand` says what the reset does to the
command that stands at its first micro-step. -/
theorem resetBeforeFirstMicroStep : Obligations.ResetBeforeFirstMicroStep := by
  intro s w ws d rest hb ho hin
  have haccept := step_quiet_accept hb ho hin
  obtain ⟨s2, hreset, hidle, hstatus, hhist, hinputs, hoffers, hothers, htarget⟩ :=
    resetAbandonsCommand (accept w { s with offers := ws, inputs := .reset d :: rest }) d rest rfl
  refine ⟨_, s2, haccept, rfl, rfl, currentWord_accepted w _, hreset, hidle, hstatus, hoffers, hinputs, hhist, ?others,
    ?landed⟩
  case others =>
    intro a hwrraw hsetdate
    refine hothers a fun dev reg v hout => ?_
    obtain hd | ⟨rfl, day, month, year, weekDay, hd⟩ := outstanding_accept_write hout
    · exact hwrraw reg v hd
    · exact hsetdate day month year weekDay hd
  case landed =>
    intro addr value b hwf hd haddr hland
    exact htarget devAddr addr value b hwf (outstanding_accept hd _) haddr hland

/-! ## Read-modify-write (R201) -/

section
variable {i : Instr} {s : State}

/-- With its answer next, a command's step is the micro-step of its operation (R31). -/
theorem step_exec {a : Answer} {rest : List Input} (hb : s.busy = true) (hd : decode (currentWord s) = some i)
    (hin : s.inputs = .answer a :: rest) : step s = exec i s :=
  stepRunsDecodedInstruction s i (blockMoves_of_answer hin) hb hd

/-- A successful write stores its value and goes on, or completes its command (R32, R54). -/
theorem step_write {a : Answer} {reg v : Byte} {rest : List Input} {last : Bool} (hb : s.busy = true)
    (hd : decode (currentWord s) = some i) (hin : s.inputs = .answer a :: rest)
    (hwrite : microStepAt i s = some (.write reg v)) (he : a.err = false)
    (hlast : decide (s.seqStep.toNat + 1 = stepCount i) = last) :
    step s = .next (advance last
      (transacted (.wr devAddr reg v false) s.t (storeReg s.periph reg v) rest s)) := by
  rw [step_exec hb hd hin, exec_at hwrite, hlast, perform_write hin, answerWrite_eq, he]
  rfl

/-- The state after a merged read of `reg` that succeeded, and after the chip's or another master's change of that
register to `other`: T has the old byte. -/
def afterChangeOfRead (reg other : Byte) (rest : List Input) (s : State) : State :=
  { s with
    t := Memory.read s.periph reg.toNat, seqStep := s.seqStep + 1#3, periph := storeReg s.periph reg other,
    inputs := rest, history := s.history ++ [.rd devAddr reg false (Memory.read s.periph reg.toNat)] }

/-- A merged read that succeeds and then a change of its register lead to `afterChangeOfRead`. -/
theorem step_read_change {x : Answer} {reg other : Byte} {rest : List Input} (hb : s.busy = true)
    (hd : decode (currentWord s) = some i) (hin : s.inputs = .answer x :: .chip reg other :: rest)
    (hx : x.err = false) (hreg : reg.toNat < 8) (hread : microStepAt i s = some (.read reg .merge)) :
    ∃ s1, step s = .next s1 ∧ step s1 = .next (afterChangeOfRead reg other rest s) := by
  have hgo := exec_merge_goesOn hin rfl hread (by simp [hx]) (memRead_held s.periph hx hreg)
  refine ⟨_, (step_exec hb hd hin).trans hgo, (step_chip rfl).trans ?_⟩
  rw [hx]
  rfl

/-- The write-back after such a change stores the byte computed from T, so the change is lost, and it ends as any
successful write does (R201). -/
theorem staleWriteBack {x y : Answer} {reg other v : Byte} {rest : List Input} {last : Bool}
    (hwf : Memory.wf s.periph) (hb : s.busy = true) (hd : decode (currentWord s) = some i)
    (hin : s.inputs = .answer x :: .chip reg other :: .answer y :: rest) (hx : x.err = false) (hy : y.err = false)
    (hreg : reg.toNat < 8) (hread : microStepAt i s = some (.read reg .merge))
    (hwrite : microStepAt i (afterChangeOfRead reg other (.answer y :: rest) s) = some (.write reg v))
    (hlast : decide ((s.seqStep + 1#3).toNat + 1 = stepCount i) = last) :
    ∃ s1 s2 q, step s = .next s1 ∧ step s1 = .next s2 ∧ step s2 = .next (advance last q) ∧
      Memory.read s2.periph reg.toNat = other ∧ Memory.read q.periph reg.toNat = v ∧ q.busy = true ∧
      q.seqStep = s.seqStep + 1#3 := by
  obtain ⟨s1, hstep0, hstep1⟩ := step_read_change hb hd hin hx hreg hread
  have hnamed := (isNamed_iff reg).2 hreg
  exact ⟨s1, _, _, hstep0, hstep1, step_write hb hd rfl hwrite hy hlast, read_storeReg_same hwf hnamed other,
    read_storeReg_same (storeReg_wf hwf reg other) hnamed v, hb, rfl⟩

end

/-- Settles O26: INIT's micro-step 1 writes back the merge of T, and is not the last. -/
theorem initWritesBackStaleHours : Obligations.InitWritesBackStaleHours := by
  intro s x y rest other hwf hk hb hd hin hx hy
  have hwrite := microStepAt_init_one (s := afterChangeOfRead 0x02#8 other (.answer y :: rest) s)
    (congrArg (· + 1#3) hk)
  obtain ⟨s1, s2, q, h0, h1, h2, hother, hback, hbusy, hindex⟩ := staleWriteBack (last := false) hwf hb hd hin hx hy
    (by decide) (microStepAt_init_zero hk) hwrite (by rw [hk]; rfl)
  refine ⟨s1, s2, _, h0, h1, h2, hother, hback, hbusy, ?_⟩
  rw [advance_middle_seqStep, hindex, hk]
  rfl

/-- Settles O56: of SETTIME's two write-backs that of the hours goes on, and that of the seconds is its last
micro-step. -/
theorem setTimeWritesBackStaleBytes : Obligations.SetTimeWritesBackStaleBytes := by
  intro s hour minute second x y rest other hwf hb hd hx hy
  refine ⟨fun hk hin => ?hours, fun hk hin => ?seconds⟩
  case hours =>
    have hread : microStepAt (.settime hour minute second) s = some (.read 0x02#8 .merge) :=
      microStepAt_of_index (congrArg BitVec.toNat hk)
    have hwrite : microStepAt (.settime hour minute second) (afterChangeOfRead 0x02#8 other (.answer y :: rest) s) =
        some (.write 0x02#8 (mergedHours (Memory.read s.periph 2) hour)) :=
      microStepAt_of_index (k := 1) (congrArg (fun k => (k + 1#3).toNat) hk)
    obtain ⟨s1, s2, q, h0, h1, h2, hother, hback, hbusy, hindex⟩ := staleWriteBack (last := false) hwf hb hd hin hx hy
      (by decide) hread hwrite (by rw [hk]; rfl)
    refine ⟨s1, s2, _, h0, h1, h2, hother, hback, hbusy, ?_⟩
    rw [advance_middle_seqStep, hindex, hk]
    rfl
  case seconds =>
    have hread : microStepAt (.settime hour minute second) s = some (.read 0x00#8 .merge) :=
      microStepAt_of_index (congrArg BitVec.toNat hk)
    have hwrite : microStepAt (.settime hour minute second) (afterChangeOfRead 0x00#8 other (.answer y :: rest) s) =
        some (.write 0x00#8 (mergedSeconds s.params (Memory.read s.periph 0) second)) :=
      microStepAt_of_index (k := 4) (congrArg (fun k => (k + 1#3).toNat) hk)
    obtain ⟨s1, s2, q, h0, h1, h2, hother, hback, -⟩ := staleWriteBack (last := true) hwf hb hd hin hx hy
      (by decide) hread hwrite (by rw [hk]; rfl)
    rw [← secKeepByte_eq]
    exact ⟨s1, s2, _, h0, h1, h2, hother, hback, rfl, rfl⟩

/-! ## SETTIME with the halt flag set (R204) -/

/-- The halt flag put before a byte below it adds 128. -/
theorem flagBit_or_of_lt {n : Byte} (hn : n.toNat < 128) : 0x80#8 ||| n = BitVec.ofNat 8 (128 + n.toNat) := by
  apply BitVec.eq_of_toNat_eq
  rw [BitVec.toNat_or, BitVec.toNat_ofNat (x := 128 + n.toNat), Nat.mod_eq_of_lt (by omega)]
  exact (Nat.two_pow_add_eq_or_of_lt (i := 7) hn 1).symm

/-- Bit 7 is set in the bytes from 128 on. -/
theorem and_flagBit_iff (x : Byte) : x &&& 0x80#8 = 0x80#8 ↔ 128 ≤ x.toNat := by
  have hand : x &&& 0x80#8 = if x.msb then 0x80#8 else 0#8 := BitVec.and_twoPow x 7
  rw [hand, BitVec.msb_eq_decide]
  simp

/-- From 128 on an encoding keeps bit 7 until its carry is dropped, and has it clear for the rest of the seconds (R141,
R204). -/
theorem d2b_flagBit_iff {n : Byte} (hlow : 128 ≤ n.toNat) (hhigh : n.toNat ≤ 187) :
    d2b n &&& 0x80#8 = 0x80#8 ↔ n.toNat ≤ 159 := by
  obtain ⟨-, hbelow, hcarry⟩ := byteEncoderDropsCarry n
  rw [d2b9_toNat_closed] at hbelow hcarry
  rw [and_flagBit_iff]
  omega

/-- Settles O33: with the flag kept, the encoder gets 128 more than the second, and drops the carry from second 32
on. -/
theorem setTimeOnHaltedChip : Obligations.SetTimeOnHaltedChip := by
  intro s hour minute second a rest hwf hk hin he hmask hflag hsecond
  have hat : microStepAt (.settime hour minute second) s = some (.write 0x00#8 (mergedSeconds s.params s.t second)) :=
    microStepAt_of_index (congrArg BitVec.toNat hk)
  have hmerged : mergedSeconds s.params s.t second = d2b (BitVec.ofNat 8 (128 + second.toNat)) := by
    rw [mergedSeconds, hmask, secKeepByte, hflag, flagBit_or_of_lt (by omega)]
  have hmore : (BitVec.ofNat 8 (128 + second.toNat)).toNat = 128 + second.toNat := Nat.mod_eq_of_lt (by omega)
  rw [hmerged] at hat
  have hread := read_storeReg_at hwf (reg := 0x00#8) (a := 0) rfl (by decide)
    (d2b (BitVec.ofNat 8 (128 + second.toNat)))
  refine ⟨_, exec_write_completes hin hk hat he rfl, rfl, hread, ?differs, ?bit7⟩ <;> simp only [hread]
  case differs =>
    intro heq
    have hdecoded := congrArg (fun b => (b2d b).toNat) heq
    simp only [b2d_d2b_toNat, hmore] at hdecoded
    omega
  case bit7 =>
    rw [d2b_flagBit_iff, hmore] <;> omega

end Sys2Proof.Machine
end
